-- ==== Sys2Proof/Word.lean ====
section
/-! DEFINITION. The machine's word types (spec/00_scope.md R10, R11): every quantity is unsigned. -/

namespace Sys2Proof

/-- `byte`, an unsigned 8-bit value (R11). -/
abbrev Byte := BitVec 8

/-- `uint16`, an unsigned 16-bit value (R11): an opcode, `PC`, `I`, a return address. -/
abbrev Word := BitVec 16

/-- `NNN`, the 12-bit address field of an opcode (R12, R71). -/
abbrev Addr12 := BitVec 12

/-- A register selector `X` or `Y`: one of the sixteen general registers (R21). -/
abbrev Reg := Fin 16

/-- A `nibble` used as a number 0..15: the row count or function code `N` (R11, R71). -/
abbrev Nibble := Fin 16

/-- The flag register `V[F]` (R22). -/
abbrev Reg.F : Reg := 15

end Sys2Proof
end

