-- ==== Sys2Proof/Config.lean ====
section
/-! DEFINITION. What an implementation fixes (spec/00_scope.md R6, R7) and the free values the host supplies (R8). -/

namespace Sys2Proof

/-- `MEM_SIZE` (R6). -/
abbrev Config.memSize : Nat := 4096
/-- `STACK_CAP` (R6). -/
abbrev Config.stackCap : Nat := 12
/-- `DISP_W` (R6). -/
abbrev Config.dispW : Nat := 64
/-- `DISP_H` (R6). -/
abbrev Config.dispH : Nat := 32
/-- `PROG_BASE`: the load address and the reset value of `PC` (R6). -/
abbrev Config.progBase : Nat := 512
/-- `IMAGE_MAX` (R6). -/
abbrev Config.imageMax : Nat := 3584
/-- `GLYPH_BYTES` (R6). -/
abbrev Config.glyphBytes : Nat := 5

/-- The default of the parameter `CLOCK_SPEED` (R7). `step` runs at it; `stepWith` and `tick` take any value (log 7). -/
def Config.defaultClockSpeed : Nat := 500

/-- `IPT = CLOCK_SPEED div 60`, the instructions of one tick (R7, R181). -/
def Config.ipt (clockSpeed : Nat) : Nat := clockSpeed / 60

/-- The default of the parameter `FONT`: the table of spec/20_memory.md R52, glyphs 0 to 7.
PRESUMED, unsafe (log 6): the spec takes these bytes from general knowledge. -/
def Config.fontLow : List Byte :=
  [0xF0, 0x90, 0x90, 0x90, 0xF0] ++ [0x20, 0x60, 0x20, 0x20, 0x70] ++
  [0xF0, 0x10, 0xF0, 0x80, 0xF0] ++ [0xF0, 0x10, 0xF0, 0x10, 0xF0] ++
  [0x90, 0x90, 0xF0, 0x10, 0x10] ++ [0xF0, 0x80, 0xF0, 0x10, 0xF0] ++
  [0xF0, 0x80, 0xF0, 0x90, 0xF0] ++ [0xF0, 0x10, 0x20, 0x40, 0x40]

/-- The same table, glyphs 8 to F. PRESUMED, unsafe (log 6). -/
def Config.fontHigh : List Byte :=
  [0xF0, 0x90, 0xF0, 0x90, 0xF0] ++ [0xF0, 0x90, 0xF0, 0x10, 0xF0] ++
  [0xF0, 0x90, 0xF0, 0x90, 0x90] ++ [0xE0, 0x90, 0xE0, 0x90, 0xE0] ++
  [0xF0, 0x80, 0x80, 0x80, 0xF0] ++ [0xE0, 0x90, 0x90, 0x90, 0xE0] ++
  [0xF0, 0x80, 0xF0, 0x80, 0xF0] ++ [0xF0, 0x80, 0xF0, 0x80, 0x80]

/-- `FONT`, the 80 bytes at addresses 0x000..0x04F after INIT (R7, R52). -/
def Config.defaultFont : List Byte := Config.fontLow ++ Config.fontHigh

/-- What the host presents to one tick: the 16 key lines and the two events (spec/60_exceptions.md R213, R214). -/
structure HostMove where
  keysIn  : Vector Bool 16
  evPause : Bool
  evQuit  : Bool
  deriving DecidableEq, Repr, Inhabited

/-- The byte on port `rnd` at the n-th draw: a free value, "under no law" (R8, R215; log 3). -/
opaque Config.rnd : Nat → Byte

/-- What the host presents to the n-th tick: a free value, a move of the host (R8; log 2). -/
opaque Config.hostMove : Nat → HostMove

end Sys2Proof
end

