-- ==== Sys2Proof/Syntax.lean ====
section
/-! DEFINITION. The instructions: one constructor per row of spec/opcode_table.json (spec/30_encoding.md R75, R76). -/

namespace Sys2Proof

/-- One decoded instruction. Fields are named as the spec names them (R71): `x`, `y` register selectors, `n` the low nibble,
`nn` the low byte, `nnn` the low twelve bits. Bits an instruction ignores (R77, R78) or that a no-op carries (R76) are kept, so
that decoding loses no bit (R82). -/
inductive Instr where
  /-- 00E0 -/
  | cls
  /-- 00EE -/
  | ret
  /-- 0NNN other than the two above: a no-op -/
  | sys (nnn : Addr12)
  /-- 1NNN -/
  | jp (nnn : Addr12)
  /-- 2NNN -/
  | call (nnn : Addr12)
  /-- 3XNN -/
  | seImm (x : Reg) (nn : Byte)
  /-- 4XNN -/
  | sneImm (x : Reg) (nn : Byte)
  /-- 5XY0; `n` is not examined (R78) -/
  | seReg (x y : Reg) (n : Nibble)
  /-- 6XNN -/
  | ldImm (x : Reg) (nn : Byte)
  /-- 7XNN -/
  | addImm (x : Reg) (nn : Byte)
  /-- 8XY0 -/
  | ldReg (x y : Reg)
  /-- 8XY1 -/
  | orReg (x y : Reg)
  /-- 8XY2 -/
  | andReg (x y : Reg)
  /-- 8XY3 -/
  | xorReg (x y : Reg)
  /-- 8XY4 -/
  | addReg (x y : Reg)
  /-- 8XY5 -/
  | sub (x y : Reg)
  /-- 8XY6; `y` is ignored (R77) -/
  | shr (x y : Reg)
  /-- 8XY7 -/
  | subn (x y : Reg)
  /-- 8XYE; `y` is ignored (R77) -/
  | shl (x y : Reg)
  /-- 9XY0; `n` is not examined (R78) -/
  | sneReg (x y : Reg) (n : Nibble)
  /-- ANNN -/
  | ldI (nnn : Addr12)
  /-- BNNN -/
  | jpV0 (nnn : Addr12)
  /-- CXNN -/
  | rnd (x : Reg) (nn : Byte)
  /-- DXYN -/
  | drw (x y : Reg) (n : Nibble)
  /-- EX9E -/
  | skp (x : Reg)
  /-- EXA1 -/
  | sknp (x : Reg)
  /-- FX07 -/
  | ldVxDt (x : Reg)
  /-- FX0A -/
  | ldVxK (x : Reg)
  /-- FX15 -/
  | ldDtVx (x : Reg)
  /-- FX18 -/
  | ldStVx (x : Reg)
  /-- FX1E -/
  | addI (x : Reg)
  /-- FX29 -/
  | ldF (x : Reg)
  /-- FX33 -/
  | bcd (x : Reg)
  /-- FX55 -/
  | store (x : Reg)
  /-- FX65 -/
  | load (x : Reg)
  /-- 8XYN with N in 8..D or F: a no-op -/
  | res8 (x y : Reg) (n : Nibble)
  /-- EXNN with NN other than 9E, A1: a no-op -/
  | resE (x : Reg) (nn : Byte)
  /-- FXNN with NN not listed: a no-op -/
  | resF (x : Reg) (nn : Byte)
  deriving DecidableEq, Repr

end Sys2Proof
end

