-- ==== Sys2Proof/WellFormed.lean ====
section
/-! DEFINITION. Which terms of `Instr` stand for a word: the types bound every field, and the four no-op rows leave out the words
that another row takes (spec/30_encoding.md R76). -/

namespace Sys2Proof

/-- The low nibbles that a row of group 8 takes (R74). -/
def usedN8 : List Nibble := [0, 1, 2, 3, 4, 5, 6, 7, 0xE]

/-- The low bytes that a row of group E takes (R74). -/
def usedNNE : List Byte := [0x9E, 0xA1]

/-- The low bytes that a row of group F takes (R74). -/
def usedNNF : List Byte := [0x07, 0x0A, 0x15, 0x18, 0x1E, 0x29, 0x33, 0x55, 0x65]

/-- A term that is the decoding of some word (R82). -/
def Instr.wf : Instr → Bool
  | .cls => true
  | .ret => true
  | .sys nnn => nnn != 0x0E0 && nnn != 0x0EE
  | .jp _ => true
  | .call _ => true
  | .seImm _ _ => true
  | .sneImm _ _ => true
  | .seReg _ _ _ => true
  | .ldImm _ _ => true
  | .addImm _ _ => true
  | .ldReg _ _ => true
  | .orReg _ _ => true
  | .andReg _ _ => true
  | .xorReg _ _ => true
  | .addReg _ _ => true
  | .sub _ _ => true
  | .shr _ _ => true
  | .subn _ _ => true
  | .shl _ _ => true
  | .sneReg _ _ _ => true
  | .ldI _ => true
  | .jpV0 _ => true
  | .rnd _ _ => true
  | .drw _ _ _ => true
  | .skp _ => true
  | .sknp _ => true
  | .ldVxDt _ => true
  | .ldVxK _ => true
  | .ldDtVx _ => true
  | .ldStVx _ => true
  | .addI _ => true
  | .ldF _ => true
  | .bcd _ => true
  | .store _ => true
  | .load _ => true
  | .res8 _ _ n => !usedN8.contains n
  | .resE _ nn => !usedNNE.contains nn
  | .resF _ nn => !usedNNF.contains nn

end Sys2Proof
end

