-- ==== Sys2Proof/Decode.lean ====
section
/-! DEFINITION. The decoder (spec/30_encoding.md R71, R74), total on 16-bit words, its front end on bytes, the opcode table of R75
as data, and the encoder. -/

namespace Sys2Proof

/-- `OP = opcode[15:12]` (R71). -/
def fieldOP (w : Word) : BitVec 4 := w.extractLsb' 12 4
/-- `X = opcode[11:8]` (R71). -/
def fieldX (w : Word) : Reg := ⟨(w.extractLsb' 8 4).toNat, (w.extractLsb' 8 4).isLt⟩
/-- `Y = opcode[7:4]` (R71). -/
def fieldY (w : Word) : Reg := ⟨(w.extractLsb' 4 4).toNat, (w.extractLsb' 4 4).isLt⟩
/-- `N = opcode[3:0]` (R71). -/
def fieldN (w : Word) : Nibble := ⟨(w.extractLsb' 0 4).toNat, (w.extractLsb' 0 4).isLt⟩
/-- `NN = opcode[7:0]` (R71). -/
def fieldNN (w : Word) : Byte := w.extractLsb' 0 8
/-- `NNN = opcode[11:0]` (R71). -/
def fieldNNN (w : Word) : Addr12 := w.extractLsb' 0 12

/-- Group 0 is matched on the whole word (R74, R79). -/
def decode0 (w : Word) : Instr :=
  if w = 0x00E0 then .cls
  else if w = 0x00EE then .ret
  else .sys (fieldNNN w)

/-- Group 8 is matched on `N` (R74). -/
def decode8 (x y : Reg) (n : Nibble) : Instr :=
  if n = 0 then .ldReg x y
  else if n = 1 then .orReg x y
  else if n = 2 then .andReg x y
  else if n = 3 then .xorReg x y
  else if n = 4 then .addReg x y
  else if n = 5 then .sub x y
  else if n = 6 then .shr x y
  else if n = 7 then .subn x y
  else if n = 0xE then .shl x y
  else .res8 x y n

/-- Group E is matched on `NN` (R74). -/
def decodeE (x : Reg) (nn : Byte) : Instr :=
  if nn = 0x9E then .skp x
  else if nn = 0xA1 then .sknp x
  else .resE x nn

/-- Group F is matched on `NN` (R74). -/
def decodeF (x : Reg) (nn : Byte) : Instr :=
  if nn = 0x07 then .ldVxDt x
  else if nn = 0x0A then .ldVxK x
  else if nn = 0x15 then .ldDtVx x
  else if nn = 0x18 then .ldStVx x
  else if nn = 0x1E then .addI x
  else if nn = 0x29 then .ldF x
  else if nn = 0x33 then .bcd x
  else if nn = 0x55 then .store x
  else if nn = 0x65 then .load x
  else .resF x nn

/-- The decision procedure of R74: the top nibble is the key. It cannot fail (R82). -/
def decode (w : Word) : Instr :=
  match (fieldOP w).toNat with
  | 0x0 => decode0 w
  | 0x1 => .jp (fieldNNN w)
  | 0x2 => .call (fieldNNN w)
  | 0x3 => .seImm (fieldX w) (fieldNN w)
  | 0x4 => .sneImm (fieldX w) (fieldNN w)
  | 0x5 => .seReg (fieldX w) (fieldY w) (fieldN w)
  | 0x6 => .ldImm (fieldX w) (fieldNN w)
  | 0x7 => .addImm (fieldX w) (fieldNN w)
  | 0x8 => decode8 (fieldX w) (fieldY w) (fieldN w)
  | 0x9 => .sneReg (fieldX w) (fieldY w) (fieldN w)
  | 0xA => .ldI (fieldNNN w)
  | 0xB => .jpV0 (fieldNNN w)
  | 0xC => .rnd (fieldX w) (fieldNN w)
  | 0xD => .drw (fieldX w) (fieldY w) (fieldN w)
  | 0xE => decodeE (fieldX w) (fieldNN w)
  | _ => decodeF (fieldX w) (fieldNN w)

/-- Two bytes as the word they store, the byte at the lower address high (spec/20_memory.md R54). -/
def wordOfBytes (hi lo : Byte) : Word := hi ++ lo

/-- The high byte of a word, stored at the lower address (R54). -/
def hiByte (w : Word) : Byte := w.extractLsb' 8 8

/-- The low byte of a word, stored at the higher address (R54). -/
def loByte (w : Word) : Byte := w.extractLsb' 0 8

/-- Why bytes do not hold an instruction: only for want of the two bytes, since every word decodes (R82). -/
inductive DecodeError where
  /-- Fewer than two bytes are left (R70: every instruction is two bytes). -/
  | truncated
  deriving DecidableEq, Repr

/-- Decoding from a list of bytes: the instruction and the bytes after it (R54, R70). -/
def decodeBytes : List Byte → Except DecodeError (Instr × List Byte)
  | hi :: lo :: rest => .ok (decode (wordOfBytes hi lo), rest)
  | [_] => .error .truncated
  | [] => .error .truncated

/-- The first `nbits` bits of `w`, the bits above them zero, as one 16-bit word. -/
def tableWord (nbits w : Nat) : Word := BitVec.ofNat 16 (w % 2 ^ nbits)

/-- What the decoder reads from the bytes of a table word, laid out as memory stores them. Every row is one 16-bit word (R70), so
a longer row is refused. -/
def decodeTableWord (nbits w : Nat) : Option Instr :=
  if nbits ≤ 16 then
    match decodeBytes [hiByte (tableWord nbits w), loByte (tableWord nbits w)] with
    | .ok (i, []) => some i
    | .ok (_, _ :: _) => none
    | .error _ => none
  else none

/-- A register selector or nibble as four bits. -/
def nib (r : Fin 16) : BitVec 4 := BitVec.ofNat 4 r.val

/-- Format NNN (R72). -/
def encNNN (op : BitVec 4) (nnn : Addr12) : Word := op ++ nnn
/-- Formats XNN and XFN (R72). -/
def encXNN (op : BitVec 4) (x : Reg) (nn : Byte) : Word := (op ++ nib x) ++ nn
/-- Format XYN (R72). -/
def encXYN (op : BitVec 4) (x y : Reg) (n : Nibble) : Word := ((op ++ nib x) ++ nib y) ++ nib n

/-- The word of an instruction, from the patterns of R75 and R76. -/
def encode : Instr → Word
  | .cls => 0x00E0
  | .ret => 0x00EE
  | .sys nnn => encNNN 0x0 nnn
  | .jp nnn => encNNN 0x1 nnn
  | .call nnn => encNNN 0x2 nnn
  | .seImm x nn => encXNN 0x3 x nn
  | .sneImm x nn => encXNN 0x4 x nn
  | .seReg x y n => encXYN 0x5 x y n
  | .ldImm x nn => encXNN 0x6 x nn
  | .addImm x nn => encXNN 0x7 x nn
  | .ldReg x y => encXYN 0x8 x y 0x0
  | .orReg x y => encXYN 0x8 x y 0x1
  | .andReg x y => encXYN 0x8 x y 0x2
  | .xorReg x y => encXYN 0x8 x y 0x3
  | .addReg x y => encXYN 0x8 x y 0x4
  | .sub x y => encXYN 0x8 x y 0x5
  | .shr x y => encXYN 0x8 x y 0x6
  | .subn x y => encXYN 0x8 x y 0x7
  | .shl x y => encXYN 0x8 x y 0xE
  | .sneReg x y n => encXYN 0x9 x y n
  | .ldI nnn => encNNN 0xA nnn
  | .jpV0 nnn => encNNN 0xB nnn
  | .rnd x nn => encXNN 0xC x nn
  | .drw x y n => encXYN 0xD x y n
  | .skp x => encXNN 0xE x 0x9E
  | .sknp x => encXNN 0xE x 0xA1
  | .ldVxDt x => encXNN 0xF x 0x07
  | .ldVxK x => encXNN 0xF x 0x0A
  | .ldDtVx x => encXNN 0xF x 0x15
  | .ldStVx x => encXNN 0xF x 0x18
  | .addI x => encXNN 0xF x 0x1E
  | .ldF x => encXNN 0xF x 0x29
  | .bcd x => encXNN 0xF x 0x33
  | .store x => encXNN 0xF x 0x55
  | .load x => encXNN 0xF x 0x65
  | .res8 x y n => encXYN 0x8 x y n
  | .resE x nn => encXNN 0xE x nn
  | .resF x nn => encXNN 0xF x nn

/-- The bytes of an instruction in memory order (R54). -/
def encodeBytes (i : Instr) : List Byte := [hiByte (encode i), loByte (encode i)]

/-- The row of spec/opcode_table.json an instruction belongs to, by its mnemonic (R75, R76). -/
def Instr.mnemonic : Instr → String
  | .cls => "00E0"
  | .ret => "00EE"
  | .sys _ => "0NNN"
  | .jp _ => "1NNN"
  | .call _ => "2NNN"
  | .seImm _ _ => "3XNN"
  | .sneImm _ _ => "4XNN"
  | .seReg _ _ _ => "5XY0"
  | .ldImm _ _ => "6XNN"
  | .addImm _ _ => "7XNN"
  | .ldReg _ _ => "8XY0"
  | .orReg _ _ => "8XY1"
  | .andReg _ _ => "8XY2"
  | .xorReg _ _ => "8XY3"
  | .addReg _ _ => "8XY4"
  | .sub _ _ => "8XY5"
  | .shr _ _ => "8XY6"
  | .subn _ _ => "8XY7"
  | .shl _ _ => "8XYE"
  | .sneReg _ _ _ => "9XY0"
  | .ldI _ => "ANNN"
  | .jpV0 _ => "BNNN"
  | .rnd _ _ => "CXNN"
  | .drw _ _ _ => "DXYN"
  | .skp _ => "EX9E"
  | .sknp _ => "EXA1"
  | .ldVxDt _ => "FX07"
  | .ldVxK _ => "FX0A"
  | .ldDtVx _ => "FX15"
  | .ldStVx _ => "FX18"
  | .addI _ => "FX1E"
  | .ldF _ => "FX29"
  | .bcd _ => "FX33"
  | .store _ => "FX55"
  | .load _ => "FX65"
  | .res8 _ _ _ => "8XYN-reserved"
  | .resE _ _ => "EXNN-reserved"
  | .resF _ _ => "FXNN-reserved"

/-- One row of the opcode table: a word selects it when `w &&& mask = pattern` (R75). -/
structure OpRow where
  name     : String
  mask     : Word
  pattern  : Word
  priority : Nat
  deriving DecidableEq, Repr

/-- The rows of priority 0 and 1 for groups 0 to 7, with mask and match as R75 prints them. -/
def rowsLow : List OpRow :=
  [⟨"00E0", 0xFFFF, 0x00E0, 0⟩, ⟨"00EE", 0xFFFF, 0x00EE, 0⟩, ⟨"1NNN", 0xF000, 0x1000, 1⟩,
   ⟨"2NNN", 0xF000, 0x2000, 1⟩, ⟨"3XNN", 0xF000, 0x3000, 1⟩, ⟨"4XNN", 0xF000, 0x4000, 1⟩,
   ⟨"5XY0", 0xF000, 0x5000, 1⟩, ⟨"6XNN", 0xF000, 0x6000, 1⟩, ⟨"7XNN", 0xF000, 0x7000, 1⟩]

/-- The rows of priority 1 for group 8 (R75). -/
def rows8 : List OpRow :=
  [⟨"8XY0", 0xF00F, 0x8000, 1⟩, ⟨"8XY1", 0xF00F, 0x8001, 1⟩, ⟨"8XY2", 0xF00F, 0x8002, 1⟩,
   ⟨"8XY3", 0xF00F, 0x8003, 1⟩, ⟨"8XY4", 0xF00F, 0x8004, 1⟩, ⟨"8XY5", 0xF00F, 0x8005, 1⟩,
   ⟨"8XY6", 0xF00F, 0x8006, 1⟩, ⟨"8XY7", 0xF00F, 0x8007, 1⟩, ⟨"8XYE", 0xF00F, 0x800E, 1⟩]

/-- The rows of priority 1 for groups 9 to E (R75). -/
def rows9E : List OpRow :=
  [⟨"9XY0", 0xF000, 0x9000, 1⟩, ⟨"ANNN", 0xF000, 0xA000, 1⟩, ⟨"BNNN", 0xF000, 0xB000, 1⟩,
   ⟨"CXNN", 0xF000, 0xC000, 1⟩, ⟨"DXYN", 0xF000, 0xD000, 1⟩, ⟨"EX9E", 0xF0FF, 0xE09E, 1⟩,
   ⟨"EXA1", 0xF0FF, 0xE0A1, 1⟩]

/-- The rows of priority 1 for group F (R75). -/
def rowsF : List OpRow :=
  [⟨"FX07", 0xF0FF, 0xF007, 1⟩, ⟨"FX0A", 0xF0FF, 0xF00A, 1⟩, ⟨"FX15", 0xF0FF, 0xF015, 1⟩,
   ⟨"FX18", 0xF0FF, 0xF018, 1⟩, ⟨"FX1E", 0xF0FF, 0xF01E, 1⟩, ⟨"FX29", 0xF0FF, 0xF029, 1⟩,
   ⟨"FX33", 0xF0FF, 0xF033, 1⟩, ⟨"FX55", 0xF0FF, 0xF055, 1⟩, ⟨"FX65", 0xF0FF, 0xF065, 1⟩]

/-- The rows of priority 2: 0NNN and the three no-op spaces (R75, R76). -/
def rowsNop : List OpRow :=
  [⟨"0NNN", 0xF000, 0x0000, 2⟩, ⟨"8XYN-reserved", 0xF000, 0x8000, 2⟩,
   ⟨"EXNN-reserved", 0xF000, 0xE000, 2⟩, ⟨"FXNN-reserved", 0xF000, 0xF000, 2⟩]

/-- spec/opcode_table.json, ordered by rising priority. -/
def opcodeTable : List OpRow := rowsLow ++ rows8 ++ rows9E ++ rowsF ++ rowsNop

/-- A word selects a row (R75). -/
def OpRow.selects (r : OpRow) (w : Word) : Bool := w &&& r.mask == r.pattern

/-- The matching row of smallest priority (R75). -/
def selectRow (w : Word) : Option OpRow := opcodeTable.find? (·.selects w)

end Sys2Proof
end

