-- ==== Sys2Proof/Machine/State.lean ====
section
/-! DEFINITION. The machine's state as plain data (spec/10_state.md R20), the reasons a step can stop, and the state after reset. -/

namespace Sys2Proof.Machine

/-- Memory (R33, R50): the cells that differ from what an unlisted address reads as, by rising address. -/
abbrev Memory := List Host.Cell

/-- The framebuffer (R29): 32 rows, top first, of 64 cells, leftmost first; `true` is on. -/
abbrev Display := Vector (Vector Bool 64) 32

/-- Run control (R30). -/
inductive RunState where
  | running
  | paused
  | halted
  deriving DecidableEq, Repr

/-- The codes the fault latch can hold besides `None` (spec/60_exceptions.md R200). -/
inductive FaultCode where
  /-- 2NNN with twelve entries on the stack (R201). -/
  | stackOverflow
  /-- 00EE with an empty stack (R202). -/
  | stackUnderflow
  /-- A fetch with PC above 4094 (R203). -/
  | fetchOutOfRange
  /-- DXYN, FX33, FX55 or FX65 reaching above address 4095 (R204). -/
  | dataOutOfRange
  deriving DecidableEq, Repr

/-- Where in a tick the machine is (spec/46_frame_scheduler.md R180, R186). The model's own (log 1). -/
inductive Phase where
  /-- Between two ticks: the next step is the head of a tick. -/
  | betweenTicks
  /-- Inside a tick, after its head, with so many slots of the batch left. -/
  | inBatch (slots : Nat)
  deriving DecidableEq, Repr

/-- Why a step would stop at the host's interface. It has no constructor: every failure the spec names is the latch `fault`
(R205), a next state from which the machine goes on as R189 says, and nothing else fails (log 9). Safe. -/
inductive Fault where
  deriving DecidableEq, Repr

/-- Why the model would have no meaning for an instruction. -/
inductive Refusal where
  /-- Raised by an arm of `exec` for an instruction that has no meaning yet. No arm raises it. Safe. -/
  | notModelled (mnemonic : String)
  deriving DecidableEq, Repr

/-- Everything the spec gives the machine (R20), then the model's own fields (log 5). -/
structure State where
  /-- `memory` (R33, R50). -/
  mem       : Memory
  /-- `V[0]`..`V[15]`; `V[15]` is the flag register (R21, R22). -/
  v         : Vector Byte 16
  /-- The index register `I`, 16 bits, never masked (R23). -/
  i         : Word
  /-- The program counter (R24). -/
  pc        : Word
  /-- The return-address stack (R25). -/
  stack     : Vector Word 12
  /-- The number of live stack entries, 0..12 (R25). -/
  sp        : Fin 13
  /-- The delay timer (R26). -/
  dt        : Byte
  /-- The sound timer (R27). -/
  st        : Byte
  /-- The key snapshot (R28). -/
  keys      : Vector Bool 16
  /-- The framebuffer (R29). -/
  display   : Display
  /-- Run control (R30). -/
  runState  : RunState
  /-- The sticky redraw flag (R31). -/
  redraw    : Bool
  /-- The sticky fault latch (R32). -/
  fault     : Option FaultCode
  /-- The model's own: where in a tick the machine is (log 1). -/
  phase     : Phase
  /-- The model's own: what the last report step answered, the port redraw_out (R217; log 16). -/
  redrawOut : Bool
  /-- The model's own: host moves already presented, oldest first (log 2). -/
  moves     : List HostMove
  /-- The model's own: how many host moves have been taken (log 2). -/
  ticks     : Nat
  /-- The model's own: bytes already presented on port rnd, oldest first (log 3). -/
  rndIn     : List Byte
  /-- The model's own: how many random bytes have been taken (log 3). -/
  draws     : Nat
  deriving DecidableEq, Repr

/-- The machine after INIT with the empty image and the default FONT (R37, R230): PC is stated by doc00, the other values are the
spec's decisions D1, D9, D10, D20 (log 4, 6), the last six the model's (log 5). -/
def State.reset : State where
  mem       := []
  v         := Vector.replicate 16 0
  i         := 0
  pc        := 512
  stack     := Vector.replicate 12 0
  sp        := 0
  dt        := 0
  st        := 0
  keys      := Vector.replicate 16 false
  display   := Vector.replicate 32 (Vector.replicate 64 false)
  runState  := .running
  redraw    := false
  fault     := none
  phase     := .betweenTicks
  redrawOut := false
  moves     := []
  ticks     := 0
  rndIn     := []
  draws     := 0

/-- The answer of one step. -/
abbrev Result := Host.Outcome State Fault Refusal

end Sys2Proof.Machine
end

