-- ==== Sys2Proof/Machine/Ops.lean ====
section
/-! DEFINITION. The named operations over memory, registers, stack and program counter, fault entry, and fetch. -/

namespace Sys2Proof.Machine

/-! ### Memory (spec/20_memory.md) -/

/-- What an address that is not listed reads as: the contents INIT gives with the default FONT and an empty image, FONT below 80
and 0 elsewhere (R51, R52; log 6). -/
def Memory.initByte (a : Nat) : Byte := Config.defaultFont.getD a 0

/-- The byte at an address (R50): every read returns the last value written, or the INIT value. -/
def Memory.read : Memory → Nat → Byte
  | [], a => Memory.initByte a
  | (k, b) :: m, a => if k = a then b else Memory.read m a

/-- One cell in front of a memory, left out when it holds what an unlisted address reads as. -/
def Memory.cons (a : Nat) (b : Byte) (m : Memory) : Memory :=
  if b = Memory.initByte a then m else (a, b) :: m

/-- Storing a byte (R58), keeping the canonical form. -/
def Memory.write : Memory → Nat → Byte → Memory
  | [], a, b => Memory.cons a b []
  | (k, c) :: m, a, b =>
    if a < k then Memory.cons a b ((k, c) :: m)
    else if a = k then Memory.cons a b m
    else (k, c) :: Memory.write m a b

/-- The canonical form from an address on: addresses rising and below 4096, no cell equal to what an unlisted address reads as. -/
def Memory.wfFrom : Nat → Memory → Bool
  | _, [] => true
  | lo, (k, b) :: m => decide (lo ≤ k) && decide (k < Config.memSize) && (b != Memory.initByte k) && Memory.wfFrom (k + 1) m

/-- The canonical form of memory. -/
def Memory.wf (m : Memory) : Bool := Memory.wfFrom 0 m

/-- Storing consecutive bytes from an address up. -/
def Memory.writeBytes (m : Memory) (a : Nat) : List Byte → Memory
  | [] => m
  | b :: bs => Memory.writeBytes (m.write a b) (a + 1) bs

/-- The highest address of an access lies outside memory (R57). -/
def outOfRange (highest : Nat) : Bool := decide (4095 < highest)

/-! ### Single fields -/

def State.setMem (s : State) (m : Memory) : State := { s with mem := m }
def State.setRegs (s : State) (v : Vector Byte 16) : State := { s with v := v }
def State.setI (s : State) (w : Word) : State := { s with i := w }
def State.setPc (s : State) (w : Word) : State := { s with pc := w }
def State.setDt (s : State) (b : Byte) : State := { s with dt := b }
def State.setSt (s : State) (b : Byte) : State := { s with st := b }
def State.setKeys (s : State) (k : Vector Bool 16) : State := { s with keys := k }
def State.setDisplay (s : State) (d : Display) : State := { s with display := d }
def State.setRunState (s : State) (r : RunState) : State := { s with runState := r }
def State.setRedraw (s : State) (b : Bool) : State := { s with redraw := b }
def State.setFault (s : State) (c : FaultCode) : State := { s with fault := some c }
def State.setPhase (s : State) (p : Phase) : State := { s with phase := p }
def State.setRedrawOut (s : State) (b : Bool) : State := { s with redrawOut := b }

/-- The stack and its depth, which only ever move together (R25). -/
def State.setStack (s : State) (k : Vector Word 12) (n : Fin 13) : State := { s with stack := k, sp := n }

/-- The random source after one draw (log 3). -/
def State.setRnd (s : State) (q : List Byte) (n : Nat) : State := { s with rndIn := q, draws := n }

/-- The host's moves after one was taken (log 2). -/
def State.setMoves (s : State) (q : List HostMove) (n : Nat) : State := { s with moves := q, ticks := n }

/-! ### Registers (spec/10_state.md R21) -/

/-- `V[r]` (R13). -/
def State.reg (s : State) (r : Reg) : Byte := s.v.get r

/-- `V[r] <- b` (R13). -/
def State.setReg (s : State) (r : Reg) (b : Byte) : State := s.setRegs (s.v.set r.val b r.isLt)

/-! ### The program counter (R24) -/

/-- `PC <- (PC + 2) mod 65536`: the advance before dispatch (spec/40_instruction_cycle.md R90), and one skip (R108). -/
def State.advance (s : State) : State := s.setPc (s.pc + 2)

/-- `PC <- PC - 2`: FX0A's rewind (spec/45_keypad_and_timers.md R172). -/
def State.rewind (s : State) : State := s.setPc (s.pc - 2)

/-! ### The stack (R25) -/

/-- Push, permitted only below twelve entries. -/
def State.push (s : State) (w : Word) : Option State :=
  if h : s.sp.val < 12 then some (s.setStack (s.stack.set s.sp.val w h) ⟨s.sp.val + 1, by omega⟩) else none

/-- Pop into `PC`, permitted only with an entry on the stack. The entry stays in the array (spec/41_flow_and_skips.md R100). -/
def State.popPc (s : State) : Option State :=
  if h : 0 < s.sp.val then
    some ((s.setStack s.stack ⟨s.sp.val - 1, by omega⟩).setPc (s.stack.get ⟨s.sp.val - 1, by omega⟩))
  else none

/-! ### How an instruction ends -/

/-- Fault entry (spec/60_exceptions.md R205): every piece of state as it was before the STEP, PC at the faulting instruction, then
the latch. There is no handler, and no return from a fault: only INIT clears the latch (R206; `State.init`). -/
def takeFault (c : FaultCode) (s : State) : Result := .next (s.setFault c)

/-- An instruction that completes: its effect runs after PC has advanced past it (spec/40_instruction_cycle.md R90). -/
def complete (effect : State → State) (s : State) : Result := .next (effect s.advance)

/-- An instruction that may be forbidden by the stack's depth: its effect, or fault entry on the state before the advance. -/
def completeOr (c : FaultCode) (effect : State → Option State) (s : State) : Result :=
  match effect s.advance with
  | some t => .next t
  | none => takeFault c s

/-- An instruction that accesses memory up to an address: checked before any effect (spec/20_memory.md R57, R58). -/
def completeInRange (highest : Nat) (effect : State → State) (s : State) : Result :=
  if outOfRange highest then takeFault .dataOutOfRange s else complete effect s

/-- A conditional skip (spec/41_flow_and_skips.md R108): one further advance when the condition holds. -/
def skipIf (c : Bool) (s : State) : Result := complete (fun t => if c then t.advance else t) s

/-! ### Fetch (spec/20_memory.md R54) -/

/-- The opcode at an address, the byte at the lower address high. -/
def wordAt (m : Memory) (a : Nat) : Word := wordOfBytes (m.read a) (m.read (a + 1))

/-- `Fetch(PC)`: none when a byte of it lies above 4095. No alignment is required (R55). -/
def fetch (s : State) : Option Word :=
  if outOfRange (s.pc.toNat + 1) then none else some (wordAt s.mem s.pc.toNat)

/-! ### Placing an instruction for the next step (log 8, 22) -/

/-- Where the next fetch will be made to read: PC, or the entry point when PC is outside memory. -/
def fetchPlace (s : State) : Word := if outOfRange (s.pc.toNat + 1) then 512 else s.pc

/-- The batch with at least one slot left. -/
def Phase.withSlot : Phase → Phase
  | .betweenTicks => .inBatch 1
  | .inBatch 0 => .inBatch 1
  | .inBatch (n + 1) => .inBatch (n + 1)

/-- The word stored where the next fetch reads, in a machine whose very next step is a slot of a batch. -/
def placeWord (s : State) (w : Word) : State :=
  { s with
    mem := s.mem.writeBytes (fetchPlace s).toNat [hiByte w, loByte w]
    pc := fetchPlace s
    runState := .running
    fault := none
    phase := s.phase.withSlot }

end Sys2Proof.Machine
end

