-- ==== Sys2Proof/Machine/Operands.lean ====
section
/-! DEFINITION. The operand forms: addresses, glyphs, keys, digits, sprites, the random byte. -/

namespace Sys2Proof.Machine

/-- `NNN` as a 16-bit address, zero-extended and not scaled (spec/30_encoding.md R73). -/
def addrOf (nnn : Addr12) : Word := nnn.setWidth 16

/-- The effective address `I + k`, an unbounded natural number (spec/20_memory.md R60). -/
def effAddr (s : State) (k : Nat) : Nat := s.i.toNat + k

/-- `V[X] & 0xF`, the key or glyph a register names (spec/45_keypad_and_timers.md R170). -/
def lowNibble (b : Byte) : Fin 16 := ⟨b.toNat % 16, Nat.mod_lt _ (by decide)⟩

/-- `(V[X] & 0xF) * 5`, the address of a glyph (spec/43_index_and_memory.md R142). -/
def glyphAddr (b : Byte) : Word := BitVec.ofNat 16 ((lowNibble b).val * Config.glyphBytes)

/-- A byte zero-extended to 16 bits (R13, `zext_16`). -/
def zext (b : Byte) : Word := b.setWidth 16

/-- The three decimal digits of a byte, most significant first (R143). -/
def bcdDigits (b : Byte) : List Byte :=
  [BitVec.ofNat 8 (b.toNat / 100), BitVec.ofNat 8 (b.toNat / 10 % 10), BitVec.ofNat 8 (b.toNat % 10)]

/-- The registers in rising order. -/
def allRegs : List Reg := [0, 1, 2, 3, 4, 5, 6, 7, 8, 9, 10, 11, 12, 13, 14, 15]

/-- `V[0..X]` inclusive, in rising order (R144, R145). -/
def regsUpTo (x : Reg) : List Reg := allRegs.filter (· ≤ x)

/-- `memory[a + r] <- V[r]` for each register of a list (R144). -/
def storeRegs (v : Vector Byte 16) (a : Nat) : List Reg → Memory → Memory
  | [], m => m
  | r :: rs, m => storeRegs v a rs (m.write (a + r.val) (v.get r))

/-- `V[r] <- memory[a + r]` for each register of a list (R145). -/
def loadRegs (m : Memory) (a : Nat) : List Reg → Vector Byte 16 → Vector Byte 16
  | [], v => v
  | r :: rs, v => loadRegs m a rs (v.set r.val (m.read (a + r.val)) r.isLt)

/-- The lowest-indexed key that is down (R172). -/
def lowestKey (keys : Vector Bool 16) : Option (Fin 16) := allRegs.find? (keys.get ·)

/-- A register or key index as a byte. -/
def indexByte (k : Fin 16) : Byte := BitVec.ofNat 8 k.val

/-- The column a sprite starts at, `V[X] mod 64` (spec/44_display.md R161). -/
def originX (b : Byte) : Nat := b.toNat % Config.dispW

/-- The row a sprite starts at, `V[Y] mod 32` (R161). -/
def originY (b : Byte) : Nat := b.toNat % Config.dispH

/-- The rows of a sprite that are on the screen, `min(N, 32 - y0)` (R161). -/
def visibleRows (n : Nibble) (y0 : Nat) : Nat := min n.val (Config.dispH - y0)

/-- The sprite bit of column `c` (0..7, 0 leftmost): bit `7 - c` (R161, R162). -/
def spriteBit (sprite : Byte) (c : Nat) : Bool := sprite.getLsbD (7 - c)

/-- The byte the next CXNN draws: the oldest byte presented on port rnd, or a free one (spec/60_exceptions.md R215; log 3). -/
def nextRnd (s : State) : Byte :=
  match s.rndIn with
  | b :: _ => b
  | [] => Config.rnd s.draws

/-- The random source after that draw: one value per execution (R215). -/
def State.afterRnd (s : State) : State := s.setRnd s.rndIn.tail (s.draws + 1)

end Sys2Proof.Machine
end

