-- ==== Sys2Proof/Machine/Loader.lean ====
section
/-! DEFINITION. INIT and its loader (spec/70_reset_and_hazards.md R230, spec/20_memory.md R53). -/

namespace Sys2Proof.Machine

/-- Memory after INIT for a FONT and an image: FONT at 0, the image at 512, zero elsewhere (R51, R52, R53, R37). The list is what
differs from the default FONT and the empty image (log 6). -/
def Memory.init (font image : List Byte) : Memory :=
  Memory.writeBytes (Memory.writeBytes [] 0 (font.take 80)) Config.progBase image

/-- INIT (R230): an image longer than 3584 bytes is refused and no machine exists (R208); otherwise every piece of state takes its
value of R37. It is the only way to clear a latched fault (R206). -/
def State.init (font image : List Byte) : Option State :=
  if Config.imageMax < image.length then none else some { State.reset with mem := Memory.init font image }

end Sys2Proof.Machine
end

