-- ==== Sys2Proof/Machine/Flags.lean ====
section
/-! DEFINITION. The values of the flag register `V[F]` (spec/10_state.md R22) and the order in which flag and result are written. -/

namespace Sys2Proof.Machine

/-- A truth value as a flag: exactly 0 or 1 (R22). -/
def flagByte (b : Bool) : Byte := if b then 1 else 0

/-- 8XY4: 1 if `p + q > 255` (spec/42_load_and_alu.md R126). -/
def carryFlag (p q : Byte) : Byte := flagByte (decide (255 < p.toNat + q.toNat))

/-- 8XY5 and 8XY7: 1 if `q <= p`, no borrow in `p - q` (R127, R129). -/
def noBorrowFlag (p q : Byte) : Byte := flagByte (decide (q.toNat ≤ p.toNat))

/-- 8XY6: the bit shifted out to the right (R128). -/
def shiftedOutRight (p : Byte) : Byte := flagByte (p.getLsbD 0)

/-- 8XYE: the bit shifted out to the left (R130). -/
def shiftedOutLeft (p : Byte) : Byte := flagByte (p.getLsbD 7)

/-- "`V[F] ← ...`; then `V[X] ← ...`": the flag is computed on the registers as they were and written, then the result is computed
on the registers as they are now and written (R119; log 10). -/
def flagThenResult (flag : State → Byte) (x : Reg) (result : State → Byte) (s : State) : State :=
  let t := s.setReg Reg.F (flag s)
  t.setReg x (result t)

end Sys2Proof.Machine
end

