-- ==== Sys2Proof/Machine/Display.lean ====
section
/-! DEFINITION. The framebuffer and its two instructions (spec/44_display.md). -/

namespace Sys2Proof.Machine

/-- `display[x, y]` (spec/10_state.md R29). Off outside the grid, which nothing asks. -/
def Display.cell (d : Display) (x y : Nat) : Bool :=
  if h : x < 64 ∧ y < 32 then (d.get ⟨y, h.2⟩).get ⟨x, h.1⟩ else false

/-- `display[x, y] <- b`. Nothing outside the grid, where nothing is drawn (R161, clip). -/
def Display.setCell (d : Display) (x y : Nat) (b : Bool) : Display :=
  if h : x < 64 ∧ y < 32 then d.set y ((d.get ⟨y, h.2⟩).set x b h.1) h.2 else d

/-- All cells off (R160). -/
def Display.clear : Display := Vector.replicate 32 (Vector.replicate 64 false)

/-- The framebuffer while a sprite is drawn, with whether a pixel has collided so far. -/
structure Drawing where
  grid     : Display
  collided : Bool
  deriving DecidableEq, Repr

/-- One pixel: XOR the cell, and note a collision if the bit is 1 and the cell was on before (R161). -/
def drawPixel (bit : Bool) (x y : Nat) (d : Drawing) : Drawing where
  grid     := Display.setCell d.grid x y (Display.cell d.grid x y != bit)
  collided := d.collided || (bit && Display.cell d.grid x y)

/-- The columns `c`, `c+1`, … of one row, so many of them, stopping at the right edge (R161, clip). -/
def drawColumns (sprite : Byte) (x0 y : Nat) : (count c : Nat) → Drawing → Drawing
  | 0, _, d => d
  | count + 1, c, d =>
    if Config.dispW ≤ x0 + c then d
    else drawColumns sprite x0 y count (c + 1) (drawPixel (spriteBit sprite c) (x0 + c) y d)

/-- The rows `r`, `r+1`, … of a sprite at address `a`, so many of them (R161). -/
def drawRows (m : Memory) (a x0 y0 : Nat) : (count r : Nat) → Drawing → Drawing
  | 0, _, d => d
  | count + 1, r, d => drawRows m a x0 y0 count (r + 1) (drawColumns (m.read (a + r)) x0 (y0 + r) 8 0 d)

/-- A whole sprite from no collision (R161). -/
def drawSprite (m : Memory) (a x0 y0 rows : Nat) (d : Display) : Drawing := drawRows m a x0 y0 rows 0 ⟨d, false⟩

/-- DXYN's effect at an origin: `V[F]` cleared, the visible rows drawn, `V[F]` set on a collision, redraw raised (R161). -/
def drawEffect (x0 y0 rows : Nat) (t : State) : State :=
  let d := drawSprite t.mem (effAddr t 0) x0 y0 rows t.display
  ((t.setDisplay d.grid).setReg Reg.F (flagByte d.collided)).setRedraw true

/-- 00E0 (R160). -/
def execCls (s : State) : Result := complete (fun t => (t.setDisplay Display.clear).setRedraw true) s

/-- DXYN (R161). The origin is read before `V[F]` is cleared; rows below the bottom edge are not read; the range is checked before
any change, and only when a row is on the screen (log 14). -/
def execDrw (x y : Reg) (n : Nibble) (s : State) : Result :=
  let x0 := originX (s.reg x)
  let y0 := originY (s.reg y)
  let rows := visibleRows n y0
  if rows = 0 then complete (drawEffect x0 y0 rows) s
  else completeInRange (effAddr s (rows - 1)) (drawEffect x0 y0 rows) s

end Sys2Proof.Machine
end

