-- ==== Sys2Proof/Machine/Ports.lean ====
section
/-! DEFINITION. The output ports, functions of the state (spec/60_exceptions.md R216 to R219, spec/10_state.md R39). -/

namespace Sys2Proof.Machine

/-- `display_out[x, y]` (R216). -/
def displayOut (s : State) (x : Fin 64) (y : Fin 32) : Bool := Display.cell s.display x.val y.val

/-- `redraw_out`, the last tick's report (R217; log 16). -/
def redrawOut (s : State) : Bool := s.redrawOut

/-- `sound_on = (ST > 0)` (R218). -/
def soundOn (s : State) : Bool := decide (0 < s.st.toNat)

/-- `run_state` (R219). -/
def runStateOut (s : State) : RunState := s.runState

/-- `fault` as its code, three bits (R200, R219). -/
def faultOut (s : State) : BitVec 3 :=
  match s.fault with
  | none => 0
  | some .stackOverflow => 1
  | some .stackUnderflow => 2
  | some .fetchOutOfRange => 3
  | some .dataOutOfRange => 4

/-- Everything the host can observe (R39). -/
structure HostView where
  grid     : Display
  redraw   : Bool
  sound    : Bool
  runState : RunState
  fault    : BitVec 3
  deriving DecidableEq, Repr

/-- What the host observes of a state (R39). -/
def hostView (s : State) : HostView where
  grid     := s.display
  redraw   := redrawOut s
  sound    := soundOn s
  runState := runStateOut s
  fault    := faultOut s

end Sys2Proof.Machine
end

