-- ==== Sys2Proof/Machine/Alu.lean ====
section
/-! DEFINITION. Register load, arithmetic, logic, shifts and random (spec/42_load_and_alu.md). -/

namespace Sys2Proof.Machine

/-- 6XNN (R120). -/
def execLdImm (x : Reg) (nn : Byte) (s : State) : Result := complete (fun t => t.setReg x nn) s

/-- 7XNN (R121): wraps modulo 256, no flag. -/
def execAddImm (x : Reg) (nn : Byte) (s : State) : Result := complete (fun t => t.setReg x (t.reg x + nn)) s

/-- 8XY0 (R122). -/
def execLdReg (x y : Reg) (s : State) : Result := complete (fun t => t.setReg x (t.reg y)) s

/-- 8XY1 (R123): no flag. -/
def execOrReg (x y : Reg) (s : State) : Result := complete (fun t => t.setReg x (t.reg x ||| t.reg y)) s

/-- 8XY2 (R124): no flag. -/
def execAndReg (x y : Reg) (s : State) : Result := complete (fun t => t.setReg x (t.reg x &&& t.reg y)) s

/-- 8XY3 (R125): no flag. -/
def execXorReg (x y : Reg) (s : State) : Result := complete (fun t => t.setReg x (t.reg x ^^^ t.reg y)) s

/-- 8XY4 (R126): carry, then the sum of the registers re-read. -/
def execAddReg (x y : Reg) (s : State) : Result :=
  complete (flagThenResult (fun t => carryFlag (t.reg x) (t.reg y)) x (fun t => t.reg x + t.reg y)) s

/-- 8XY5 (R127): no-borrow, then `V[X] - V[Y]` of the registers re-read. -/
def execSub (x y : Reg) (s : State) : Result :=
  complete (flagThenResult (fun t => noBorrowFlag (t.reg x) (t.reg y)) x (fun t => t.reg x - t.reg y)) s

/-- 8XY6 (R128): bit 0 out, then the shift of the register re-read; `V[Y]` is neither read nor written. -/
def execShr (x _y : Reg) (s : State) : Result :=
  complete (flagThenResult (fun t => shiftedOutRight (t.reg x)) x (fun t => t.reg x >>> 1)) s

/-- 8XY7 (R129): no-borrow, then `V[Y] - V[X]` of the registers re-read. -/
def execSubn (x y : Reg) (s : State) : Result :=
  complete (flagThenResult (fun t => noBorrowFlag (t.reg y) (t.reg x)) x (fun t => t.reg y - t.reg x)) s

/-- 8XYE (R130): bit 7 out, then the shift of the register re-read; `V[Y]` is neither read nor written. -/
def execShl (x _y : Reg) (s : State) : Result :=
  complete (flagThenResult (fun t => shiftedOutLeft (t.reg x)) x (fun t => t.reg x <<< 1)) s

/-- CXNN (R131): a random byte, one draw per execution, AND `NN`. -/
def execRnd (x : Reg) (nn : Byte) (s : State) : Result :=
  complete (fun t => t.afterRnd.setReg x (nextRnd t &&& nn)) s

end Sys2Proof.Machine
end

