-- ==== Sys2Proof/Machine/Flow.lean ====
section
/-! DEFINITION. Control transfer and conditional skips (spec/41_flow_and_skips.md). -/

namespace Sys2Proof.Machine

/-- 00EE (R100). -/
def execRet (s : State) : Result := completeOr .stackUnderflow State.popPc s

/-- 1NNN (R101). -/
def execJp (nnn : Addr12) (s : State) : Result := complete (fun t => t.setPc (addrOf nnn)) s

/-- 2NNN's effect (R102): the address after the call is pushed, then the jump; none on a full stack. -/
def pushAndJump (nnn : Addr12) (t : State) : Option State :=
  match t.push t.pc with
  | some u => some (u.setPc (addrOf nnn))
  | none => none

/-- 2NNN (R102). -/
def execCall (nnn : Addr12) (s : State) : Result := completeOr .stackOverflow (pushAndJump nnn) s

/-- BNNN (R103): not reduced modulo 4096. -/
def execJpV0 (nnn : Addr12) (s : State) : Result := complete (fun t => t.setPc (zext (t.reg 0) + addrOf nnn)) s

/-- 3XNN (R104). -/
def execSeImm (x : Reg) (nn : Byte) (s : State) : Result := skipIf (s.reg x == nn) s

/-- 4XNN (R105). -/
def execSneImm (x : Reg) (nn : Byte) (s : State) : Result := skipIf (s.reg x != nn) s

/-- 5XY0 (R106): `n` is not examined (log 11). -/
def execSeReg (x y : Reg) (_n : Nibble) (s : State) : Result := skipIf (s.reg x == s.reg y) s

/-- 9XY0 (R107): `n` is not examined (log 11). -/
def execSneReg (x y : Reg) (_n : Nibble) (s : State) : Result := skipIf (s.reg x != s.reg y) s

end Sys2Proof.Machine
end

