-- ==== Sys2Proof/Machine/Index.lean ====
section
/-! DEFINITION. The index register and memory transfer (spec/43_index_and_memory.md). `I` is never changed by an access (R146). -/

namespace Sys2Proof.Machine

/-- ANNN (R140). -/
def execLdI (nnn : Addr12) (s : State) : Result := complete (fun t => t.setI (addrOf nnn)) s

/-- FX1E (R141): modulo 65536, no flag. -/
def execAddI (x : Reg) (s : State) : Result := complete (fun t => t.setI (t.i + zext (t.reg x))) s

/-- FX29 (R142). -/
def execLdF (x : Reg) (s : State) : Result := complete (fun t => t.setI (glyphAddr (t.reg x))) s

/-- FX33 (R143): hundreds, tens and units at `I`, `I+1`, `I+2`. -/
def execBcd (x : Reg) (s : State) : Result :=
  completeInRange (effAddr s 2) (fun t => t.setMem (t.mem.writeBytes (effAddr t 0) (bcdDigits (t.reg x)))) s

/-- FX55 (R144): `V[0..X]` into `memory[I..I+X]`. -/
def execStore (x : Reg) (s : State) : Result :=
  completeInRange (effAddr s x.val) (fun t => t.setMem (storeRegs t.v (effAddr t 0) (regsUpTo x) t.mem)) s

/-- FX65 (R145): `memory[I..I+X]` into `V[0..X]`. -/
def execLoad (x : Reg) (s : State) : Result :=
  completeInRange (effAddr s x.val) (fun t => t.setRegs (loadRegs t.mem (effAddr t 0) (regsUpTo x) t.v)) s

end Sys2Proof.Machine
end

