-- ==== Sys2Proof/Machine/Keypad.lean ====
section
/-! DEFINITION. Keypad and timer instructions (spec/45_keypad_and_timers.md). -/

namespace Sys2Proof.Machine

/-- `keys[k]` (spec/10_state.md R28). -/
def State.key (s : State) (k : Fin 16) : Bool := s.keys.get k

/-- EX9E (R170). -/
def execSkp (x : Reg) (s : State) : Result := skipIf (s.key (lowNibble (s.reg x))) s

/-- EXA1 (R171). -/
def execSknp (x : Reg) (s : State) : Result := skipIf (!s.key (lowNibble (s.reg x))) s

/-- FX0A's effect (R172): the lowest key down into a register, or `PC` rewound. -/
def keyWait (x : Reg) (t : State) : State :=
  match lowestKey t.keys with
  | some k => t.setReg x (indexByte k)
  | none => t.rewind

/-- FX0A (R172). -/
def execLdVxK (x : Reg) (s : State) : Result := complete (keyWait x) s

/-- FX07 (R173). -/
def execLdVxDt (x : Reg) (s : State) : Result := complete (fun t => t.setReg x t.dt) s

/-- FX15 (R174). -/
def execLdDtVx (x : Reg) (s : State) : Result := complete (fun t => t.setDt (t.reg x)) s

/-- FX18 (R175). -/
def execLdStVx (x : Reg) (s : State) : Result := complete (fun t => t.setSt (t.reg x)) s

end Sys2Proof.Machine
end

