-- ==== Sys2Proof/Machine/Nop.lean ====
section
/-! DEFINITION. 0NNN and the three reserved no-op spaces (spec/40_instruction_cycle.md R92, R94 to R97). -/

namespace Sys2Proof.Machine

/-- 0NNN (R94): `PC` advances, nothing else changes. -/
def execSys (_nnn : Addr12) (s : State) : Result := complete id s

/-- 8XYN with N in 8..D or F (R95): `PC` advances, nothing else changes. -/
def execRes8 (_x _y : Reg) (_n : Nibble) (s : State) : Result := complete id s

/-- EXNN with NN other than 9E, A1 (R96): `PC` advances, nothing else changes. -/
def execResE (_x : Reg) (_nn : Byte) (s : State) : Result := complete id s

/-- FXNN with NN not listed (R97): `PC` advances, nothing else changes. -/
def execResF (_x : Reg) (_nn : Byte) (s : State) : Result := complete id s

end Sys2Proof.Machine
end

