-- ==== Sys2Proof/Machine/Scheduler.lean ====
section
/-! DEFINITION. STEP (spec/40_instruction_cycle.md R90) and TICK (spec/46_frame_scheduler.md): the whole tick as the spec writes it,
and the same tick cut into steps, one slot of the batch at a time (log 1). -/

namespace Sys2Proof.Machine

/-- STEP (R90): fetch, advance and dispatch; a fetch outside memory latches a fault instead. -/
def engineStep (s : State) : Result :=
  match fetch s with
  | some w => exec (decode w) s
  | none => takeFault .fetchOutOfRange s

/-- One answer after another. -/
def andThen (r : Result) (k : State → Result) : Result :=
  match r with
  | .next s => k s
  | .fault f => .fault f
  | .refused f => .refused f

/-- Instructions execute and timers decrement only then (R184, R186). -/
def canRun (s : State) : Bool := decide (s.runState = .running) && s.fault.isNone

/-- Step 1 of a tick, the events (R182): nothing leaves Halted, quit wins over pause. -/
def applyEvents (mv : HostMove) (s : State) : State :=
  match s.runState with
  | .halted => s
  | .running => if mv.evQuit then s.setRunState .halted else if mv.evPause then s.setRunState .paused else s
  | .paused => if mv.evQuit then s.setRunState .halted else if mv.evPause then s.setRunState .running else s

/-- Step 2 of a tick, the key snapshot (R183): taken unless Halted. -/
def snapshotKeys (mv : HostMove) (s : State) : State :=
  if s.runState = .halted then s else s.setKeys mv.keysIn

/-- A timer one lower, 0 staying 0 (R184). -/
def countDown (b : Byte) : Byte := if b = 0 then 0 else b - 1

/-- Step 4 of a tick, the timers (R184). -/
def decrementTimers (s : State) : State :=
  if canRun s then (s.setDt (countDown s.dt)).setSt (countDown s.st) else s

/-- Step 5 of a tick, the report (R185): the redraw flag goes out and is cleared, whatever the state. -/
def report (s : State) : State := (s.setRedrawOut s.redraw).setRedraw false

/-! ### The whole tick -/

/-- Step 3 of a tick, the batch (R186): so many STEPs, stopping early only at a fault. -/
def batch : Nat → State → Result
  | 0, s => .next s
  | n + 1, s => if canRun s then andThen (engineStep s) (batch n) else .next s

/-- TICK (R180) at a CLOCK_SPEED, for what the host presents. The report it returns is left in `redrawOut`. -/
def tick (clockSpeed : Nat) (mv : HostMove) (s : State) : Result :=
  andThen (batch (Config.ipt clockSpeed) (snapshotKeys mv (applyEvents mv s)))
    (fun t => .next (report (decrementTimers t)))

/-! ### The tick in steps -/

/-- What the host presents to this tick: the oldest move already presented, or a free one (R8; log 2). -/
def nextMove (s : State) : HostMove :=
  match s.moves with
  | mv :: _ => mv
  | [] => Config.hostMove s.ticks

/-- The host's moves after that one was taken (log 2). -/
def State.afterMove (s : State) : State := s.setMoves s.moves.tail (s.ticks + 1)

/-- The head of a tick: events and key snapshot, then a batch of IPT slots begins (R180, R181). -/
def tickHead (clockSpeed : Nat) (s : State) : State :=
  (snapshotKeys (nextMove s) (applyEvents (nextMove s) s.afterMove)).setPhase (.inBatch (Config.ipt clockSpeed))

/-- The tail of a tick: timers and report (R184, R185). -/
def tickTail (s : State) : State := (report (decrementTimers s)).setPhase .betweenTicks

/-- One slot of the batch with so many slots left after it; when nothing may run, the tick's tail at once (R186). -/
def slot (left : Nat) (s : State) : Result :=
  if canRun s then engineStep (s.setPhase (.inBatch left)) else .next (tickTail s)

/-- One step at a CLOCK_SPEED: the head of a tick, one slot of its batch, or its tail. -/
def stepWith (clockSpeed : Nat) (s : State) : Result :=
  match s.phase with
  | .betweenTicks => .next (tickHead clockSpeed s)
  | .inBatch 0 => .next (tickTail s)
  | .inBatch (left + 1) => slot left s

/-- So many steps at a CLOCK_SPEED. -/
def stepsWith (clockSpeed : Nat) : Nat → State → Result
  | 0, s => .next s
  | k + 1, s => andThen (stepWith clockSpeed s) (stepsWith clockSpeed k)

end Sys2Proof.Machine
end

