-- ==== Sys2Proof/Machine/Step.lean ====
section
/-! DEFINITION. The machine's step, at the default CLOCK_SPEED (spec/00_scope.md R7; log 7), and the placing of one instruction. -/

namespace Sys2Proof.Machine

/-- One step: the head of a tick, one slot of its batch, or its tail (spec/46_frame_scheduler.md R180; log 1). -/
def step (s : State) : Host.Outcome State Fault Refusal := stepWith Config.defaultClockSpeed s

/-- The state with an instruction where the very next step fetches it, and a batch in which that step is a slot (log 8, 22). -/
def State.withFetchWord (s : State) (nbits w : Nat) : State := placeWord s (tableWord nbits w)

end Sys2Proof.Machine
end

