-- ==== Sys2Proof/Safety.lean ====
section
/-! DEFINITION. What counts as a safe run, in the terms the claims use: the invariant, the end of a run, the picture a sprite
makes, and where `PC` stands after each instruction. -/

namespace Sys2Proof.Machine

/-- What every step keeps, at a CLOCK_SPEED: memory's canonical form; PC within what an instruction can leave in it (spec/10_state.md
R24: at most 0x10FE, BNNN's largest sum); every live return address the word after some call (R25: 2..4096); and a batch no longer
than IPT (spec/46_frame_scheduler.md R181, R186). -/
structure Inv (clockSpeed : Nat) (s : State) : Prop where
  memWf      : Memory.wf s.mem = true
  pcBound    : s.pc.toNat ≤ 0x10FE
  liveReturn : ∀ k : Fin 12, k.val < s.sp.val → 2 ≤ (s.stack.get k).toNat ∧ (s.stack.get k).toNat ≤ 4096
  slotsBound : ∀ n, s.phase = .inBatch n → n ≤ clockSpeed / 60

/-- The run has ended in the host's quit, or spins on a jump to itself without a fault (spec/70_reset_and_hazards.md R232). -/
def Finished (s : State) : Prop :=
  s.runState = .halted ∨
    (s.fault = none ∧ s.pc.toNat ≤ 4094 ∧ ∃ nnn : Addr12, decode (wordAt s.mem s.pc.toNat) = .jp nnn ∧ nnn.toNat = s.pc.toNat)

/-- Whether the `n` row sprite at `I`, drawn at an origin, has a 1 bit on the cell `(cx, cy)`: column `cx - x0` of row `cy - y0`
takes bit `7 - (cx - x0)` of `memory[I + (cy - y0)]` (spec/44_display.md R161, R162). -/
def spritePixel (s : State) (x0 y0 n cx cy : Nat) : Bool :=
  decide (x0 ≤ cx ∧ cx < x0 + 8 ∧ y0 ≤ cy ∧ cy < y0 + n) && (s.mem.read (s.i.toNat + (cy - y0))).getLsbD (7 - (cx - x0))

/-- The table of spec/10_state.md R24 for an instruction that does not fault: what `PC` is after it, by the instruction and its
condition. `a + 2` and `a + 4` are modulo 65536 (log 12). -/
def PcAfter (i : Instr) (s : State) (pc : Word) : Prop :=
  match i with
  | .jp nnn | .call nnn => pc.toNat = nnn.toNat
  | .ret => ∃ k : Fin 12, k.val + 1 = s.sp.val ∧ pc = s.stack.get k
  | .jpV0 nnn => pc.toNat = (s.reg 0).toNat + nnn.toNat ∧ pc.toNat ≤ 0x10FE
  | .seImm x nn => pc = s.pc + (if s.reg x = nn then 4 else 2)
  | .sneImm x nn => pc = s.pc + (if s.reg x = nn then 2 else 4)
  | .seReg x y _ => pc = s.pc + (if s.reg x = s.reg y then 4 else 2)
  | .sneReg x y _ => pc = s.pc + (if s.reg x = s.reg y then 2 else 4)
  | .skp x => pc = s.pc + (if s.keys.get (lowNibble (s.reg x)) = true then 4 else 2)
  | .sknp x => pc = s.pc + (if s.keys.get (lowNibble (s.reg x)) = true then 2 else 4)
  | .ldVxK _ => ((∃ k, s.keys.get k = true) → pc = s.pc + 2) ∧ ((∀ k, s.keys.get k = false) → pc = s.pc)
  | .cls | .sys _ | .ldImm _ _ | .addImm _ _ | .ldReg _ _ | .orReg _ _ | .andReg _ _ | .xorReg _ _ | .addReg _ _ | .sub _ _
  | .shr _ _ | .subn _ _ | .shl _ _ | .ldI _ | .rnd _ _ | .drw _ _ _ | .ldVxDt _ | .ldDtVx _ | .ldStVx _ | .addI _ | .ldF _
  | .bcd _ | .store _ | .load _ | .res8 _ _ _ | .resE _ _ | .resF _ _ => pc = s.pc + 2

/-- Two states that differ at most in dead stack entries, those at or above `sp` (spec/10_state.md R25). -/
def SameButDeadStack (s s' : State) : Prop :=
  s' = { s with stack := s'.stack } ∧ ∀ k : Fin 12, k.val < s.sp.val → s'.stack.get k = s.stack.get k

/-- The same answer with its next state changed. -/
def mapNext (f : State → State) (r : Result) : Result :=
  match r with
  | .next t => .next (f t)
  | .fault c => .fault c
  | .refused c => .refused c

end Sys2Proof.Machine
end

