-- ==== Sys2Proof/Certificates/Slice0/Obligations.lean ====
section
/-! DEFINITION. The statements for the provers. Each docstring names the rules of spec/ it formalises. Where a statement reads
memory back after a store it assumes memory's canonical form, which `EveryStepKeepsTheInvariant` says every step keeps. -/

open Sys2Proof Sys2Proof.Machine

/-! ### Reset and INIT -/

/-- R37 with the empty image: what INIT leaves, every row of the table. `PC = 512` and that FONT lies at 0 to 79 are stated by doc00;
the bytes of FONT are the default parameter (log 6); the other values are the spec's own decisions D1, D9, D10 and D20 (log 4, 6):
every register, timer, key, pixel and flag 0 or off, the stack empty, Running, no fault, memory zero above the font table. -/
def Obligations.ResetLeavesTheTablesValues : Prop :=
  State.reset.pc.toNat = 512 ∧
  (∀ r, State.reset.reg r = 0) ∧ State.reset.i = 0 ∧ State.reset.sp = 0 ∧ (∀ k, State.reset.stack.get k = 0) ∧
  State.reset.dt = 0 ∧ State.reset.st = 0 ∧ (∀ k, State.reset.keys.get k = false) ∧
  (∀ x y, Display.cell State.reset.display x y = false) ∧ State.reset.runState = .running ∧ State.reset.redraw = false ∧
  State.reset.fault = none ∧ (∀ a, a < 80 → State.reset.mem.read a = Config.defaultFont.getD a 0) ∧
  ∀ a, 80 ≤ a → State.reset.mem.read a = 0

/-- R53, R230, R208: INIT refuses an image longer than 3584 bytes; otherwise it puts FONT at 0 and the image at 512, zero in the
rest of memory (the spec's decision D10), memory is canonical, and everything else is as after reset. -/
def Obligations.InitLoadsFontAndImage : Prop :=
  ∀ font image : List Byte, font.length = 80 →
    (3584 < image.length → State.init font image = none) ∧
    (image.length ≤ 3584 → ∃ s, State.init font image = some s ∧
      s = { State.reset with mem := s.mem } ∧ Memory.wf s.mem = true ∧
      ∀ a, a < 4096 → s.mem.read a =
        if a < 80 then font.getD a 0
        else if 512 ≤ a ∧ a < 512 + image.length then image.getD (a - 512) 0 else 0)

/-! ### Encoding -/

/-- R75: words written out from the spec's encodings decode to the instructions they stand for. -/
def Obligations.WordsOfTheSpecDecode : Prop :=
  decode 0x00E0 = .cls ∧ decode 0x00EE = .ret ∧ decode 0x01E0 = .sys 0x1E0 ∧ decode 0x1ABC = .jp 0xABC ∧
  decode 0x3A42 = .seImm 0xA 0x42 ∧ decode 0x512F = .seReg 1 2 0xF ∧ decode 0x81F4 = .addReg 1 0xF ∧
  decode 0x8128 = .res8 1 2 8 ∧ decode 0xD015 = .drw 0 1 5 ∧ decode 0xE09F = .resE 0 0x9F ∧ decode 0xF30A = .ldVxK 3 ∧
  decode 0xF275 = .resF 2 0x75

/-- R71: the fields of a word given by its four nibbles; `NN = Y*16 + N`, `NNN = X*256 + Y*16 + N`. -/
def Obligations.FieldsOfAWord : Prop :=
  ∀ op x y n : Nat, op < 16 → x < 16 → y < 16 → n < 16 →
    let w : Word := BitVec.ofNat 16 (op * 4096 + x * 256 + y * 16 + n)
    (fieldOP w).toNat = op ∧ (fieldX w).val = x ∧ (fieldY w).val = y ∧ (fieldN w).val = n ∧
    (fieldNN w).toNat = y * 16 + n ∧ (fieldNNN w).toNat = x * 256 + y * 16 + n

/-- R82: decoding the word of a well-formed instruction gives it back, with every operand at every value. -/
def Obligations.DecodeUndoesEncode : Prop := ∀ i : Instr, i.wf = true → decode (encode i) = i

/-- R82, R76: encoding what a word decodes to gives the word back, and every word decodes to a well-formed instruction: no bit of
any of the 65536 words is lost. -/
def Obligations.EncodeUndoesDecode : Prop := ∀ w : Word, encode (decode w) = w ∧ (decode w).wf = true

/-- R75: the decoder reads every word as an instruction of the row of opcode_table.json of smallest priority that the word selects
by mask and match. -/
def Obligations.DecodeFollowsTheOpcodeTable : Prop :=
  ∀ w : Word, (selectRow w).map (·.name) = some (decode w).mnemonic

/-- R54, R70: on bytes, the first byte is the high byte of the word, two bytes are one instruction and the rest is left; fewer than
two bytes are refused by name. -/
def Obligations.BytesDecodeBigEndian : Prop :=
  (∀ (hi lo : Byte) (rest : List Byte), ∃ w : Word, w.toNat = hi.toNat * 256 + lo.toNat ∧
    decodeBytes (hi :: lo :: rest) = .ok (decode w, rest)) ∧
  (∀ b : Byte, decodeBytes [b] = .error .truncated) ∧ decodeBytes [] = .error .truncated ∧
  ∀ (i : Instr) (rest : List Byte), i.wf = true → decodeBytes (encodeBytes i ++ rest) = .ok (i, rest)

/-! ### Instructions, family by family: encoding, result, and frame -/

/-- R94, R95, R96, R97: 0NNN and the three reserved spaces only advance `PC`. Which words of groups 0, 8, E and F these are is the
spec's decision D13 (log 21). -/
def Obligations.NoOpsOnlyAdvancePc : Prop :=
  (∀ w, fieldOP w = 0 → w ≠ 0x00E0 → w ≠ 0x00EE → decode w = .sys (fieldNNN w)) ∧
  (∀ w, fieldOP w = 8 → fieldN w ∈ ([8, 9, 0xA, 0xB, 0xC, 0xD, 0xF] : List Nibble) →
    decode w = .res8 (fieldX w) (fieldY w) (fieldN w)) ∧
  (∀ w, fieldOP w = 0xE → fieldNN w ∉ ([0x9E, 0xA1] : List Byte) → decode w = .resE (fieldX w) (fieldNN w)) ∧
  (∀ w, fieldOP w = 0xF → fieldNN w ∉ ([0x07, 0x0A, 0x15, 0x18, 0x1E, 0x29, 0x33, 0x55, 0x65] : List Byte) →
    decode w = .resF (fieldX w) (fieldNN w)) ∧
  ∀ (s : State) (nnn : Addr12) (x y : Reg) (n : Nibble) (nn : Byte),
    exec (.sys nnn) s = .next { s with pc := s.pc + 2 } ∧ exec (.res8 x y n) s = .next { s with pc := s.pc + 2 } ∧
    exec (.resE x nn) s = .next { s with pc := s.pc + 2 } ∧ exec (.resF x nn) s = .next { s with pc := s.pc + 2 }

/-- R100: 00EE pops the stack into `PC`, or latches StackUnderflow on an empty stack. That a failed
pop is latched and changes nothing else is the spec's decision D1, D3, D6 (log 9). -/
def Obligations.RetPopsOrUnderflows : Prop :=
  decode 0x00EE = .ret ∧ ∀ s : State,
    (s.sp.val = 0 → exec .ret s = .next { s with fault := some .stackUnderflow }) ∧
    ∀ k : Fin 12, s.sp.val = k.val + 1 →
      ∃ t, exec .ret s = .next t ∧ t.sp.val = k.val ∧ t.pc = s.stack.get k ∧ t = { s with sp := t.sp, pc := t.pc }

/-- R101: 1NNN sets `PC` to `NNN`, whatever `NNN` is. -/
def Obligations.JpSetsPc : Prop :=
  (∀ w, fieldOP w = 1 → decode w = .jp (fieldNNN w)) ∧
  ∀ (nnn : Addr12) (s : State), ∃ t, exec (.jp nnn) s = .next t ∧ t.pc.toNat = nnn.toNat ∧ t = { s with pc := t.pc }

/-- R102: 2NNN pushes the address of the following word and jumps, or latches StackOverflow at twelve entries.
That a failed push is latched and changes nothing else is the spec's decision D1, D2, D6 (log 9). -/
def Obligations.CallPushesOrOverflows : Prop :=
  (∀ w, fieldOP w = 2 → decode w = .call (fieldNNN w)) ∧
  ∀ (nnn : Addr12) (s : State),
    (s.sp.val = 12 → exec (.call nnn) s = .next { s with fault := some .stackOverflow }) ∧
    ∀ k : Fin 12, s.sp.val = k.val →
      ∃ t, exec (.call nnn) s = .next t ∧ t.sp.val = k.val + 1 ∧ t.stack.get k = s.pc + 2 ∧
        (∀ j, j ≠ k → t.stack.get j = s.stack.get j) ∧ t.pc.toNat = nnn.toNat ∧
        t = { s with stack := t.stack, sp := t.sp, pc := t.pc }

/-- R103: BNNN sets `PC` to `V[0] + NNN`, not reduced modulo 4096. -/
def Obligations.JpV0AddsRegisterZero : Prop :=
  (∀ w, fieldOP w = 0xB → decode w = .jpV0 (fieldNNN w)) ∧
  ∀ (nnn : Addr12) (s : State),
    ∃ t, exec (.jpV0 nnn) s = .next t ∧ t.pc.toNat = (s.reg 0).toNat + nnn.toNat ∧ t = { s with pc := t.pc }

/-- R104, R105: 3XNN and 4XNN move `PC` by four when the condition holds, by two when it does not, and do nothing else. -/
def Obligations.ImmediateSkips : Prop :=
  (∀ w, fieldOP w = 3 → decode w = .seImm (fieldX w) (fieldNN w)) ∧
  (∀ w, fieldOP w = 4 → decode w = .sneImm (fieldX w) (fieldNN w)) ∧
  ∀ (s : State) (x : Reg) (nn : Byte),
    exec (.seImm x nn) s = .next { s with pc := s.pc + (if s.reg x = nn then 4 else 2) } ∧
    exec (.sneImm x nn) s = .next { s with pc := s.pc + (if s.reg x = nn then 2 else 4) }

/-- R106, R107: 5XY0 and 9XY0 likewise on two registers; that their low nibble is not examined is the spec's decision D12
(log 11). -/
def Obligations.RegisterSkips : Prop :=
  (∀ w, fieldOP w = 5 → decode w = .seReg (fieldX w) (fieldY w) (fieldN w)) ∧
  (∀ w, fieldOP w = 9 → decode w = .sneReg (fieldX w) (fieldY w) (fieldN w)) ∧
  ∀ (s : State) (x y : Reg) (n : Nibble),
    exec (.seReg x y n) s = .next { s with pc := s.pc + (if s.reg x = s.reg y then 4 else 2) } ∧
    exec (.sneReg x y n) s = .next { s with pc := s.pc + (if s.reg x = s.reg y then 2 else 4) }

/-- R170, R171: the two key skips test the key named by the low nibble of `V[X]` and do nothing but move `PC`. -/
def Obligations.KeySkips : Prop :=
  (∀ w, fieldOP w = 0xE → fieldNN w = 0x9E → decode w = .skp (fieldX w)) ∧
  (∀ w, fieldOP w = 0xE → fieldNN w = 0xA1 → decode w = .sknp (fieldX w)) ∧
  ∀ (s : State) (x : Reg) (k : Fin 16), k.val = (s.reg x).toNat % 16 →
    exec (.skp x) s = .next { s with pc := s.pc + (if s.keys.get k = true then 4 else 2) } ∧
    exec (.sknp x) s = .next { s with pc := s.pc + (if s.keys.get k = true then 2 else 4) }

/-- R120, R121, R122: 6XNN, 7XNN and 8XY0 write `V[X]` and nothing else; the sum wraps modulo 256 and sets no flag. -/
def Obligations.LoadsAndImmediateAdd : Prop :=
  (∀ w, fieldOP w = 6 → decode w = .ldImm (fieldX w) (fieldNN w)) ∧
  (∀ w, fieldOP w = 7 → decode w = .addImm (fieldX w) (fieldNN w)) ∧
  (∀ w, fieldOP w = 8 → fieldN w = 0 → decode w = .ldReg (fieldX w) (fieldY w)) ∧
  ∀ (s : State) (x y : Reg) (nn : Byte),
    (∃ t, exec (.ldImm x nn) s = .next t ∧ t.reg x = nn ∧ (∀ r, r ≠ x → t.reg r = s.reg r) ∧
      t = { s with v := t.v, pc := s.pc + 2 }) ∧
    (∃ t, exec (.addImm x nn) s = .next t ∧ (t.reg x).toNat = ((s.reg x).toNat + nn.toNat) % 256 ∧
      (∀ r, r ≠ x → t.reg r = s.reg r) ∧ t = { s with v := t.v, pc := s.pc + 2 }) ∧
    (∃ t, exec (.ldReg x y) s = .next t ∧ t.reg x = s.reg y ∧ (∀ r, r ≠ x → t.reg r = s.reg r) ∧
      t = { s with v := t.v, pc := s.pc + 2 })

/-- R123, R124, R125: 8XY1, 8XY2 and 8XY3 OR, AND and XOR bit by bit into `V[X]` and write nothing else; that `V[F]` is not written
is the spec's decision D28 (log 18). -/
def Obligations.LogicBitByBit : Prop :=
  (∀ w, fieldOP w = 8 → fieldN w = 1 → decode w = .orReg (fieldX w) (fieldY w)) ∧
  (∀ w, fieldOP w = 8 → fieldN w = 2 → decode w = .andReg (fieldX w) (fieldY w)) ∧
  (∀ w, fieldOP w = 8 → fieldN w = 3 → decode w = .xorReg (fieldX w) (fieldY w)) ∧
  ∀ (s : State) (x y : Reg),
    (∃ t, exec (.orReg x y) s = .next t ∧
      (∀ b, (t.reg x).getLsbD b = ((s.reg x).getLsbD b || (s.reg y).getLsbD b)) ∧
      (∀ r, r ≠ x → t.reg r = s.reg r) ∧ t = { s with v := t.v, pc := s.pc + 2 }) ∧
    (∃ t, exec (.andReg x y) s = .next t ∧
      (∀ b, (t.reg x).getLsbD b = ((s.reg x).getLsbD b && (s.reg y).getLsbD b)) ∧
      (∀ r, r ≠ x → t.reg r = s.reg r) ∧ t = { s with v := t.v, pc := s.pc + 2 }) ∧
    (∃ t, exec (.xorReg x y) s = .next t ∧
      (∀ b, (t.reg x).getLsbD b = ((s.reg x).getLsbD b != (s.reg y).getLsbD b)) ∧
      (∀ r, r ≠ x → t.reg r = s.reg r) ∧ t = { s with v := t.v, pc := s.pc + 2 })

/-- R126: 8XY4 in all the cases of the rule's table, `f` the carry: flag first, then the sum of the registers re-read. The rows
with `X = F` or `Y = F` are the spec's decision D14 (log 10). -/
def Obligations.AddWithCarry : Prop :=
  (∀ w, fieldOP w = 8 → fieldN w = 4 → decode w = .addReg (fieldX w) (fieldY w)) ∧
  ∀ (s : State) (x y : Reg),
    let p := (s.reg x).toNat
    let q := (s.reg y).toNat
    let f := if 255 < p + q then 1 else 0
    ∃ t, exec (.addReg x y) s = .next t ∧ t = { s with v := t.v, pc := s.pc + 2 } ∧
      (∀ r, r ≠ x → r ≠ 15 → t.reg r = s.reg r) ∧
      (x ≠ 15 → (t.reg 15).toNat = f) ∧
      (x ≠ 15 → y ≠ 15 → (t.reg x).toNat = (p + q) % 256) ∧
      (x ≠ 15 → y = 15 → (t.reg x).toNat = (p + f) % 256) ∧
      (x = 15 → y ≠ 15 → (t.reg x).toNat = (f + q) % 256) ∧
      (x = 15 → y = 15 → (t.reg x).toNat = 2 * f)

/-- R127: 8XY5 in all the cases of the rule's table, `f` the no-borrow flag. The rows with `X = F` or `Y = F` are the spec's decision
D14 (log 10). -/
def Obligations.SubtractWithNoBorrow : Prop :=
  (∀ w, fieldOP w = 8 → fieldN w = 5 → decode w = .sub (fieldX w) (fieldY w)) ∧
  ∀ (s : State) (x y : Reg),
    let p := (s.reg x).toNat
    let q := (s.reg y).toNat
    let f := if q ≤ p then 1 else 0
    ∃ t, exec (.sub x y) s = .next t ∧ t = { s with v := t.v, pc := s.pc + 2 } ∧
      (∀ r, r ≠ x → r ≠ 15 → t.reg r = s.reg r) ∧
      (x ≠ 15 → (t.reg 15).toNat = f) ∧
      (x ≠ 15 → y ≠ 15 → (t.reg x).toNat = (256 + p - q) % 256) ∧
      (x ≠ 15 → y = 15 → (t.reg x).toNat = (256 + p - f) % 256) ∧
      (x = 15 → y ≠ 15 → (t.reg x).toNat = (256 + f - q) % 256) ∧
      (x = 15 → y = 15 → (t.reg x).toNat = 0)

/-- R129: 8XY7 in all the cases of the rule's table, `f` the no-borrow flag of `V[Y] - V[X]`. The rows with `X = F` or `Y = F`
are the spec's decision D14 (log 10). -/
def Obligations.ReverseSubtractWithNoBorrow : Prop :=
  (∀ w, fieldOP w = 8 → fieldN w = 7 → decode w = .subn (fieldX w) (fieldY w)) ∧
  ∀ (s : State) (x y : Reg),
    let p := (s.reg x).toNat
    let q := (s.reg y).toNat
    let f := if p ≤ q then 1 else 0
    ∃ t, exec (.subn x y) s = .next t ∧ t = { s with v := t.v, pc := s.pc + 2 } ∧
      (∀ r, r ≠ x → r ≠ 15 → t.reg r = s.reg r) ∧
      (x ≠ 15 → (t.reg 15).toNat = f) ∧
      (x ≠ 15 → y ≠ 15 → (t.reg x).toNat = (256 + q - p) % 256) ∧
      (x ≠ 15 → y = 15 → (t.reg x).toNat = (256 + f - p) % 256) ∧
      (x = 15 → y ≠ 15 → (t.reg x).toNat = (256 + q - f) % 256) ∧
      (x = 15 → y = 15 → (t.reg x).toNat = 0)

/-- R128, R130: 8XY6 and 8XYE shift `V[X]` by one, the bit out in `V[F]`; `V[Y]` plays no part; with `X = F` the shifted flag
remains, which is the spec's decision D14 (log 10). -/
def Obligations.ShiftsByOne : Prop :=
  (∀ w, fieldOP w = 8 → fieldN w = 6 → decode w = .shr (fieldX w) (fieldY w)) ∧
  (∀ w, fieldOP w = 8 → fieldN w = 0xE → decode w = .shl (fieldX w) (fieldY w)) ∧
  ∀ (s : State) (x y : Reg),
    let p := (s.reg x).toNat
    (∃ t, exec (.shr x y) s = .next t ∧ t = { s with v := t.v, pc := s.pc + 2 } ∧
      (∀ r, r ≠ x → r ≠ 15 → t.reg r = s.reg r) ∧
      (x ≠ 15 → (t.reg 15).toNat = p % 2 ∧ (t.reg x).toNat = p / 2) ∧ (x = 15 → (t.reg 15).toNat = 0)) ∧
    (∃ t, exec (.shl x y) s = .next t ∧ t = { s with v := t.v, pc := s.pc + 2 } ∧
      (∀ r, r ≠ x → r ≠ 15 → t.reg r = s.reg r) ∧
      (x ≠ 15 → (t.reg 15).toNat = p / 128 ∧ (t.reg x).toNat = 2 * p % 256) ∧
      (x = 15 → (t.reg 15).toNat = 2 * (p / 128)))

/-- R131 for every draw: CXNN takes one byte from port rnd and writes it AND `NN`. Where the byte comes from is the model's choice
(log 3): the oldest one already presented, else a free value of Config that nothing can evaluate. -/
def Obligations.RndMasksOneDraw : Prop :=
  (∀ w, fieldOP w = 0xC → decode w = .rnd (fieldX w) (fieldNN w)) ∧
  ∀ (s : State) (x : Reg) (nn : Byte),
    (∀ b rest, s.rndIn = b :: rest → ∃ t, exec (.rnd x nn) s = .next t ∧ t.reg x = b &&& nn ∧
      (∀ r, r ≠ x → t.reg r = s.reg r) ∧ t = { s with v := t.v, pc := s.pc + 2, rndIn := rest, draws := s.draws + 1 }) ∧
    (s.rndIn = [] → ∃ t, exec (.rnd x nn) s = .next t ∧ t.reg x = Config.rnd s.draws &&& nn ∧
      (∀ r, r ≠ x → t.reg r = s.reg r) ∧ t = { s with v := t.v, pc := s.pc + 2, draws := s.draws + 1 })

/-- R140, R142: ANNN and FX29 write `I`, the address and the glyph's address, and nothing else. -/
def Obligations.IndexLoads : Prop :=
  (∀ w, fieldOP w = 0xA → decode w = .ldI (fieldNNN w)) ∧
  (∀ w, fieldOP w = 0xF → fieldNN w = 0x29 → decode w = .ldF (fieldX w)) ∧
  ∀ (s : State) (nnn : Addr12) (x : Reg),
    (∃ t, exec (.ldI nnn) s = .next t ∧ t.i.toNat = nnn.toNat ∧ t = { s with i := t.i, pc := s.pc + 2 }) ∧
    (∃ t, exec (.ldF x) s = .next t ∧ t.i.toNat = (s.reg x).toNat % 16 * 5 ∧ t = { s with i := t.i, pc := s.pc + 2 })

/-- R141: FX1E adds `V[X]` to `I` without a flag and changes nothing else; the sum is taken modulo 65536, which the spec derives
from the register's width. -/
def Obligations.IndexAddWrapsAt65536 : Prop :=
  (∀ w, fieldOP w = 0xF → fieldNN w = 0x1E → decode w = .addI (fieldX w)) ∧
  ∀ (s : State) (x : Reg), ∃ t, exec (.addI x) s = .next t ∧ t.i.toNat = (s.i.toNat + (s.reg x).toNat) % 65536 ∧
    t = { s with i := t.i, pc := s.pc + 2 }

/-- R143: FX33 stores hundreds, tens and units at `I`, `I+1`, `I+2` and nothing else, or latches DataOutOfRange when a digit would
lie above 4095 (the spec's decision D4, log 13). -/
def Obligations.BcdStoresThreeDigits : Prop :=
  (∀ w, fieldOP w = 0xF → fieldNN w = 0x33 → decode w = .bcd (fieldX w)) ∧
  ∀ (s : State) (x : Reg), Memory.wf s.mem = true →
    (4095 < effAddr s 2 → exec (.bcd x) s = .next { s with fault := some .dataOutOfRange }) ∧
    (effAddr s 2 ≤ 4095 → ∃ t, exec (.bcd x) s = .next t ∧
      (t.mem.read (effAddr s 0)).toNat = (s.reg x).toNat / 100 ∧
      (t.mem.read (effAddr s 1)).toNat = (s.reg x).toNat / 10 % 10 ∧
      (t.mem.read (effAddr s 2)).toNat = (s.reg x).toNat % 10 ∧
      (∀ a, a ≠ effAddr s 0 → a ≠ effAddr s 1 → a ≠ effAddr s 2 → t.mem.read a = s.mem.read a) ∧
      t = { s with mem := t.mem, pc := s.pc + 2 })

/-- R144: FX55 stores `V[0..X]` at `I..I+X` and nothing else, or latches DataOutOfRange when a byte would lie above 4095 (the spec's
decision D4, log 13). -/
def Obligations.StoreRegistersToMemory : Prop :=
  (∀ w, fieldOP w = 0xF → fieldNN w = 0x55 → decode w = .store (fieldX w)) ∧
  ∀ (s : State) (x : Reg), Memory.wf s.mem = true →
    (4095 < effAddr s x.val → exec (.store x) s = .next { s with fault := some .dataOutOfRange }) ∧
    (effAddr s x.val ≤ 4095 → ∃ t, exec (.store x) s = .next t ∧
      (∀ r : Reg, r ≤ x → t.mem.read (effAddr s r.val) = s.reg r) ∧
      (∀ a, (∀ r : Reg, r ≤ x → a ≠ effAddr s r.val) → t.mem.read a = s.mem.read a) ∧
      t = { s with mem := t.mem, pc := s.pc + 2 })

/-- R145: FX65 loads `V[0..X]` from `I..I+X` and writes nothing else, or latches DataOutOfRange when a byte would lie above 4095
(the spec's decision D4, log 13). -/
def Obligations.LoadRegistersFromMemory : Prop :=
  (∀ w, fieldOP w = 0xF → fieldNN w = 0x65 → decode w = .load (fieldX w)) ∧
  ∀ (s : State) (x : Reg),
    (4095 < effAddr s x.val → exec (.load x) s = .next { s with fault := some .dataOutOfRange }) ∧
    (effAddr s x.val ≤ 4095 → ∃ t, exec (.load x) s = .next t ∧
      (∀ r : Reg, r ≤ x → t.reg r = s.mem.read (effAddr s r.val)) ∧ (∀ r : Reg, x < r → t.reg r = s.reg r) ∧
      t = { s with v := t.v, pc := s.pc + 2 })

/-- R160: 00E0 turns every cell off and raises redraw, and does nothing else. -/
def Obligations.ClsClearsTheDisplay : Prop :=
  decode 0x00E0 = .cls ∧ ∀ s : State, ∃ t, exec .cls s = .next t ∧ (∀ x y, Display.cell t.display x y = false) ∧
    t = { s with display := t.display, redraw := true, pc := s.pc + 2 }

/-- R161, R162: DXYN cell by cell. The origin wraps and is read before `V[F]` is cleared; rows and columns past the edges are
clipped and not read; a cell is inverted exactly when a 1 bit of the sprite lies on it; `V[F]` is 1 exactly when such a cell was on
before; redraw is raised; a visible row above address 4095 latches DataOutOfRange and changes nothing else. The
order of the reads and the range check are the spec's decisions D4 and D15 (log 13, 14), the orientation of the grid is presumed
(log 17). -/
def Obligations.DrwXorsTheClippedSprite : Prop :=
  (∀ w, fieldOP w = 0xD → decode w = .drw (fieldX w) (fieldY w) (fieldN w)) ∧
  ∀ (s : State) (x y : Reg) (n : Nibble),
    let x0 := (s.reg x).toNat % 64
    let y0 := (s.reg y).toNat % 32
    let rows := min n.val (32 - y0)
    (0 < rows → 4095 < effAddr s (rows - 1) → exec (.drw x y n) s = .next { s with fault := some .dataOutOfRange }) ∧
    ((0 < rows → effAddr s (rows - 1) ≤ 4095) → ∃ t, exec (.drw x y n) s = .next t ∧
      (∀ cx cy, cx < 64 → cy < 32 →
        Display.cell t.display cx cy = (Display.cell s.display cx cy != spritePixel s x0 y0 n.val cx cy)) ∧
      (t.reg 15 = 1 ∨ t.reg 15 = 0) ∧
      (t.reg 15 = 1 ↔ ∃ cx cy, cx < 64 ∧ cy < 32 ∧ spritePixel s x0 y0 n.val cx cy = true ∧
        Display.cell s.display cx cy = true) ∧
      (∀ r, r ≠ 15 → t.reg r = s.reg r) ∧
      t = { s with display := t.display, v := t.v, redraw := true, pc := s.pc + 2 })

/-- R172: FX0A stores the lowest key that is down and goes on; with no key down the whole state is as before, so the instruction
repeats. -/
def Obligations.KeyWaitStoresLowestKeyOrRepeats : Prop :=
  (∀ w, fieldOP w = 0xF → fieldNN w = 0x0A → decode w = .ldVxK (fieldX w)) ∧
  ∀ (s : State) (x : Reg),
    (∀ k : Fin 16, s.keys.get k = true → (∀ j, j < k → s.keys.get j = false) →
      ∃ t, exec (.ldVxK x) s = .next t ∧ (t.reg x).toNat = k.val ∧ (∀ r, r ≠ x → t.reg r = s.reg r) ∧
        t = { s with v := t.v, pc := s.pc + 2 }) ∧
    ((∀ k : Fin 16, s.keys.get k = false) → exec (.ldVxK x) s = .next s)

/-- R173, R174, R175: FX07 reads `DT`, FX15 writes `DT`, FX18 writes `ST`, and nothing else changes. -/
def Obligations.TimerAccess : Prop :=
  (∀ w, fieldOP w = 0xF → fieldNN w = 0x07 → decode w = .ldVxDt (fieldX w)) ∧
  (∀ w, fieldOP w = 0xF → fieldNN w = 0x15 → decode w = .ldDtVx (fieldX w)) ∧
  (∀ w, fieldOP w = 0xF → fieldNN w = 0x18 → decode w = .ldStVx (fieldX w)) ∧
  ∀ (s : State) (x : Reg),
    (∃ t, exec (.ldVxDt x) s = .next t ∧ t.reg x = s.dt ∧ (∀ r, r ≠ x → t.reg r = s.reg r) ∧
      t = { s with v := t.v, pc := s.pc + 2 }) ∧
    exec (.ldDtVx x) s = .next { s with dt := s.reg x, pc := s.pc + 2 } ∧
    exec (.ldStVx x) s = .next { s with st := s.reg x, pc := s.pc + 2 }

/-! ### What several instructions do together -/

/-- S7 of spec/95_test_vectors.md (R144, R145): FX55, then registers changed in any way, then FX65 of the same `X`, restores
`V[0..X]`, and `I` is unchanged by both. -/
def Obligations.StoreThenLoadRestoresRegisters : Prop :=
  ∀ (s t : State) (x : Reg) (v : Vector Byte 16), Memory.wf s.mem = true → effAddr s x.val ≤ 4095 →
    exec (.store x) s = .next t →
    ∃ u, exec (.load x) { t with v := v } = .next u ∧ (∀ r : Reg, r ≤ x → u.reg r = s.reg r) ∧
      (∀ r : Reg, x < r → u.reg r = v.get r) ∧ u.i = s.i ∧ u.mem = t.mem

/-- R100, R102, R25: a return right after a call comes back to the word after the call, with the same depth and the same live
entries. -/
def Obligations.ReturnUndoesCall : Prop :=
  ∀ (s : State) (nnn : Addr12), s.sp.val < 12 →
    ∃ t u, exec (.call nnn) s = .next t ∧ exec .ret t = .next u ∧ u.pc = s.pc + 2 ∧ u.sp = s.sp ∧
      (∀ k : Fin 12, k.val < s.sp.val → u.stack.get k = s.stack.get k) ∧
      u = { s with pc := u.pc, stack := u.stack }

/-- S4 of spec/95_test_vectors.md with the proviso of R161: drawing a sprite twice at one place restores the display; when the
region was off and a 1 bit of the sprite is on the screen, the second draw collides. `X` and `Y` are not `F`, whose value the first
draw changes. -/
def Obligations.DrawingTwiceRestoresTheDisplay : Prop :=
  ∀ (s t u : State) (x y : Reg) (n : Nibble), x ≠ 15 → y ≠ 15 →
    exec (.drw x y n) s = .next t → t.fault = none → exec (.drw x y n) t = .next u → u.display = s.display ∧
    let pix := spritePixel s ((s.reg x).toNat % 64) ((s.reg y).toNat % 32) n.val
    ((∀ cx cy, cx < 64 → cy < 32 → pix cx cy = true → Display.cell s.display cx cy = false) →
      (∃ cx cy, cx < 64 ∧ cy < 32 ∧ pix cx cy = true) → t.reg 15 = 0 ∧ u.reg 15 = 1)

/-- R54, R64: a word stored by FX55 at `PC + 2` is what the very next STEP fetches and executes, the first stored byte high. -/
def Obligations.StoreIsSeenByTheNextFetch : Prop :=
  ∀ (s t : State) (x : Reg), Memory.wf s.mem = true → 1 ≤ x.val → s.i = s.pc + 2 → effAddr s x.val ≤ 4095 →
    exec (.store x) s = .next t →
    ∃ w : Word, fetch t = some w ∧ w.toNat = (s.reg 0).toNat * 256 + (s.reg 1).toNat ∧ engineStep t = exec (decode w) t

/-! ### STEP and faults -/

/-- R54, R55, R90, R203: STEP reads the two bytes at `PC` and `PC + 1`, the byte at `PC` high, whatever the parity of `PC` (the spec's
decision D7, log 12), and executes the word they make; with `PC > 4094` it latches FetchOutOfRange and changes nothing
else (the spec's decision D4, log 13). -/
def Obligations.StepFetchesAndExecutes : Prop :=
  ∀ s : State,
    (s.pc.toNat + 1 ≤ 4095 → ∃ w : Word, engineStep s = exec (decode w) s ∧
      w.toNat = (s.mem.read s.pc.toNat).toNat * 256 + (s.mem.read (s.pc.toNat + 1)).toNat) ∧
    (4095 < s.pc.toNat + 1 → engineStep s = .next { s with fault := some .fetchOutOfRange })

/-- A step runs the decoded instruction: in a slot of a running batch, when the bytes at `PC` decode to `i`, the step is `exec i` on
the state with that slot taken. The slots are the model's (log 1). -/
def Obligations.ASlotRunsTheDecodedInstruction : Prop :=
  ∀ (clockSpeed left : Nat) (s : State) (i : Instr), s.phase = .inBatch (left + 1) → s.runState = .running →
    s.fault = none → s.pc.toNat ≤ 4094 →
    decodeBytes [s.mem.read s.pc.toNat, s.mem.read (s.pc.toNat + 1)] = .ok (i, []) →
    stepWith clockSpeed s = exec i { s with phase := .inBatch left } ∧ step s = exec i { s with phase := .inBatch left }

/-- The word placed by `withFetchWord` (log 8, 22) is the one the very next step executes. -/
def Obligations.PlacedWordRunsNext : Prop :=
  ∀ (s : State) (w : Nat), Memory.wf s.mem = true → w < 65536 →
    ∃ left, (s.withFetchWord 16 w).phase = .inBatch (left + 1) ∧
      step (s.withFetchWord 16 w) = exec (decode (BitVec.ofNat 16 w)) { s.withFetchWord 16 w with phase := .inBatch left }

/-- R200, R205, R207: when an instruction latches a fault it changes nothing else, so `PC` is still at it, and the fault is the one
of the table's row and arises only under that row's cause. The codes are the table's. The latch, its codes and the range checks are
the spec's decisions D1 to D6 (log 9, 13). -/
def Obligations.FaultsAreThoseOfTheTable : Prop :=
  (∀ (i : Instr) (s t : State), exec i s = .next t → t.fault = s.fault ∨
    ∃ c, t = { s with fault := some c } ∧
      ((c = .stackOverflow ∧ s.sp.val = 12 ∧ ∃ nnn, i = .call nnn) ∨
       (c = .stackUnderflow ∧ s.sp.val = 0 ∧ i = .ret) ∨
       (c = .dataOutOfRange ∧
         ((∃ x, i = .bcd x ∧ 4095 < effAddr s 2) ∨ (∃ x, i = .store x ∧ 4095 < effAddr s x.val) ∨
          (∃ x, i = .load x ∧ 4095 < effAddr s x.val) ∨
          ∃ x y n, i = .drw x y n ∧ 0 < min n.val (32 - (s.reg y).toNat % 32) ∧
            4095 < effAddr s (min n.val (32 - (s.reg y).toNat % 32) - 1))))) ∧
  ∀ s : State,
    faultOut { s with fault := none } = 0 ∧ faultOut { s with fault := some .stackOverflow } = 1 ∧
    faultOut { s with fault := some .stackUnderflow } = 2 ∧ faultOut { s with fault := some .fetchOutOfRange } = 3 ∧
    faultOut { s with fault := some .dataOutOfRange } = 4

/-- R74, R82, R92: every step at every CLOCK_SPEED answers a next state: nothing stops the machine at the host's interface.
That a failure is a latch and no stop is the spec's decision D1 (log 9). -/
def Obligations.EveryStepAnswersANextState : Prop :=
  (∀ s : State, ∃ t, step s = .next t) ∧ ∀ (clockSpeed : Nat) (s : State), ∃ t, stepWith clockSpeed s = .next t

/-- R189, R206: once a fault is latched a step never changes or clears it, and everything a program can reach is frozen; only the
keys, the run state, the redraw flags and the tick's own bookkeeping may move (the spec's decisions D1, D19, D27; log 9, 15). -/
def Obligations.AFaultFreezesTheMachine : Prop :=
  ∀ (clockSpeed : Nat) (s t : State) (c : FaultCode), s.fault = some c → stepWith clockSpeed s = .next t →
    t = { s with keys := t.keys, runState := t.runState, redraw := t.redraw, redrawOut := t.redrawOut,
                 phase := t.phase, moves := t.moves, ticks := t.ticks }

/-- R38, R30, R28: which instructions may write which state: the table of mutators, for instructions. -/
def Obligations.MutatorsOfEachPieceOfState : Prop :=
  ∀ (i : Instr) (s t : State), exec i s = .next t →
    (t.mem = s.mem ∨ ∃ x, i = .bcd x ∨ i = .store x) ∧
    (t.v = s.v ∨ ∃ x y n nn, i ∈ ([.ldImm x nn, .addImm x nn, .ldReg x y, .orReg x y, .andReg x y, .xorReg x y, .addReg x y,
      .sub x y, .shr x y, .subn x y, .shl x y, .rnd x nn, .drw x y n, .ldVxDt x, .ldVxK x, .load x] : List Instr)) ∧
    (t.i = s.i ∨ ∃ nnn x, i ∈ ([.ldI nnn, .addI x, .ldF x] : List Instr)) ∧
    ((t.stack = s.stack ∧ t.sp = s.sp) ∨ i = .ret ∨ ∃ nnn, i = .call nnn) ∧
    (t.dt = s.dt ∨ ∃ x, i = .ldDtVx x) ∧ (t.st = s.st ∨ ∃ x, i = .ldStVx x) ∧
    ((t.display = s.display ∧ t.redraw = s.redraw) ∨ i = .cls ∨ ∃ x y n, i = .drw x y n) ∧
    ((t.rndIn = s.rndIn ∧ t.draws = s.draws) ∨ ∃ x nn, i = .rnd x nn) ∧
    t.keys = s.keys ∧ t.runState = s.runState ∧ t.redrawOut = s.redrawOut ∧ t.phase = s.phase ∧ t.moves = s.moves ∧
    t.ticks = s.ticks

/-- R31: an instruction leaves redraw raised exactly when it was raised before, or the instruction is 00E0, or a DXYN that did not
fault (it advanced `PC`). -/
def Obligations.RedrawIsRaisedByClsAndDrw : Prop :=
  ∀ (i : Instr) (s t : State), exec i s = .next t →
    (t.redraw = true ↔ s.redraw = true ∨ i = .cls ∨ ∃ x y n, i = .drw x y n ∧ t.pc = s.pc + 2)

/-- R24: `PC` after an instruction, every row of the rule's table under its own instruction and condition (`PcAfter`); one that
faults leaves `PC` where it was. Only a machine with no fault latched executes (R186), so a fault after is the instruction's own. The
faulting row is the spec's decision D6 (log 9), the modulus of `a + 2` and `a + 4` is D8 (log 12). -/
def Obligations.PcAfterEachInstruction : Prop :=
  ∀ (i : Instr) (s t : State), s.fault = none → exec i s = .next t →
    (t.fault = none → PcAfter i s t.pc) ∧ (t.fault ≠ none → t.pc = s.pc)

/-- R209, R210, R30: no instruction reads or writes the run state, and none observes where in a tick it runs or what the host will
present: changing those commutes with every instruction. -/
def Obligations.NoInstructionObservesTheScheduler : Prop :=
  ∀ (i : Instr) (s : State) (r : RunState) (p : Phase) (b : Bool) (q : List HostMove) (n : Nat),
    exec i { s with runState := r, phase := p, redrawOut := b, moves := q, ticks := n } =
      mapNext (fun t => { t with runState := r, phase := p, redrawOut := b, moves := q, ticks := n }) (exec i s)

/-- R25: stack entries at or above `sp` are unobservable: states that differ only there answer states that differ only there. -/
def Obligations.DeadStackEntriesAreUnobservable : Prop :=
  ∀ (i : Instr) (s s' t : State), SameButDeadStack s s' → exec i s = .next t →
    ∃ t', exec i s' = .next t' ∧ SameButDeadStack t t'

/-! ### The tick -/

/-- R181, R182, R183: the head of a tick, for whatever the host presents. The events first (nothing leaves Halted, quit wins over
pause, pause toggles), then the key snapshot unless Halted by then, then a batch of `CLOCK_SPEED div 60` slots; nothing else changes.
The order and the precedence are the spec's decisions D18 and D27 (log 15). Where the move comes from is the model's (log 2): the
oldest one already presented, else a free value of Config that nothing can evaluate. -/
def Obligations.TickHeadAppliesEventsThenKeys : Prop :=
  ∀ (clockSpeed : Nat) (s : State) (mv : HostMove), s.phase = .betweenTicks →
    ((∃ rest, s.moves = mv :: rest) ∨ (s.moves = [] ∧ mv = Config.hostMove s.ticks)) →
    ∃ t, stepWith clockSpeed s = .next t ∧
      (s.runState = .halted → t.runState = .halted) ∧
      (s.runState ≠ .halted → mv.evQuit = true → t.runState = .halted) ∧
      (s.runState = .running → mv.evQuit = false → t.runState = if mv.evPause = true then .paused else .running) ∧
      (s.runState = .paused → mv.evQuit = false → t.runState = if mv.evPause = true then .running else .paused) ∧
      (t.runState = .halted → t.keys = s.keys) ∧ (t.runState ≠ .halted → t.keys = mv.keysIn) ∧
      t = { s with runState := t.runState, keys := t.keys, phase := .inBatch (clockSpeed / 60), moves := s.moves.tail,
                   ticks := s.ticks + 1 }

/-- R184, R185: the tail of a tick: each timer one lower if greater than 0, only while Running without a fault; then the redraw flag
goes out and is cleared, always; nothing else changes. That a fault skips the timers and never the report is the spec's decision
D19 (log 15). -/
def Obligations.TickTailCountsDownAndReports : Prop :=
  ∀ (clockSpeed : Nat) (s : State), s.phase = .inBatch 0 →
    ∃ t, stepWith clockSpeed s = .next t ∧
      (s.runState = .running → s.fault = none → t.dt.toNat = s.dt.toNat - 1 ∧ t.st.toNat = s.st.toNat - 1) ∧
      (s.runState ≠ .running ∨ s.fault ≠ none → t.dt = s.dt ∧ t.st = s.st) ∧
      t.redrawOut = s.redraw ∧ t.redraw = false ∧
      t = { s with dt := t.dt, st := t.st, redraw := false, redrawOut := t.redrawOut, phase := .betweenTicks }

/-- R187: TICK of a machine that is Paused after the events: the keys follow the host and the report is made; no instruction and no
timer runs, and everything else is frozen. What still runs in a Paused tick is the spec's decision D18, D27 (log 15). -/
def Obligations.PausedTickFreezes : Prop :=
  ∀ (clockSpeed : Nat) (mv : HostMove) (s : State), (applyEvents mv s).runState = .paused →
    tick clockSpeed mv s = .next { s with runState := .paused, keys := mv.keysIn, redrawOut := s.redraw, redraw := false }

/-- R188: TICK of a Halted machine makes the report and changes nothing else, whatever the host presents. That the keys are not sampled
is the spec's decision D27 (log 15). -/
def Obligations.HaltedTickOnlyReports : Prop :=
  ∀ (clockSpeed : Nat) (mv : HostMove) (s : State), s.runState = .halted →
    tick clockSpeed mv s = .next { s with redrawOut := s.redraw, redraw := false }

/-- R189 (the spec's decisions D1, D19): TICK of a faulted machine that is not Halted: events, keys and report only. -/
def Obligations.FaultedTickFreezes : Prop :=
  ∀ (clockSpeed : Nat) (mv : HostMove) (s : State), s.fault ≠ none → s.runState ≠ .halted →
    ∃ t, tick clockSpeed mv s = .next t ∧
      t = { s with runState := t.runState, keys := t.keys, redrawOut := s.redraw, redraw := false } ∧
      (t.runState = .halted → t.keys = s.keys) ∧ (t.runState ≠ .halted → t.keys = mv.keysIn)

/-- R184, D24: with CLOCK_SPEED below 60 a running tick executes no instruction and still counts the timers down. -/
def Obligations.ClockBelow60OnlyCountsDown : Prop :=
  ∀ (clockSpeed : Nat) (mv : HostMove) (s : State), clockSpeed < 60 → (applyEvents mv s).runState = .running → s.fault = none →
    ∃ t, tick clockSpeed mv s = .next t ∧ t.dt.toNat = s.dt.toNat - 1 ∧ t.st.toNat = s.st.toNat - 1 ∧
      t = { s with runState := .running, keys := mv.keysIn, dt := t.dt, st := t.st, redrawOut := s.redraw, redraw := false }

/-- R191, R235: inside a batch no step changes the key snapshot or the run state. -/
def Obligations.KeysAreConstantWithinABatch : Prop :=
  ∀ (clockSpeed n : Nat) (s t : State), s.phase = .inBatch n → stepWith clockSpeed s = .next t →
    t.keys = s.keys ∧ t.runState = s.runState ∧ t.moves = s.moves

/-- R192, S9: a running tick that presents no key to a program waiting in FX0A ends with `PC` and every register where they were,
the timers one lower and the report made, however many slots the batch has. -/
def Obligations.KeyWaitSpansATick : Prop :=
  ∀ (clockSpeed : Nat) (mv : HostMove) (s : State) (x : Reg), s.runState = .running → s.fault = none → mv.evPause = false →
    mv.evQuit = false → (∀ k, mv.keysIn.get k = false) → s.pc.toNat ≤ 4094 →
    decode (wordAt s.mem s.pc.toNat) = .ldVxK x →
    ∃ t, tick clockSpeed mv s = .next t ∧ t.dt.toNat = s.dt.toNat - 1 ∧ t.st.toNat = s.st.toNat - 1 ∧
      t = { s with keys := mv.keysIn, dt := t.dt, st := t.st, redrawOut := s.redraw, redraw := false }

/-- R180, R186, R190: the steps walk through the whole TICK as the spec writes it. From between two ticks, at most
`CLOCK_SPEED div 60 + 2` steps lead to exactly the state TICK gives for the host's move, between two ticks again. That a tick is cut
into steps is the model's (log 1). -/
def Obligations.StepsWalkThroughTheTick : Prop :=
  ∀ (clockSpeed : Nat) (s : State), s.phase = .betweenTicks →
    ∃ k t, 2 ≤ k ∧ k ≤ clockSpeed / 60 + 2 ∧ tick clockSpeed (nextMove s) s.afterMove = .next t ∧ t.phase = .betweenTicks ∧
      stepsWith clockSpeed k s = .next t

/-- R232: a machine that spins on a jump to itself changes nothing but the slot count while the batch lasts. -/
def Obligations.SpinningChangesNothing : Prop :=
  ∀ (clockSpeed left : Nat) (s : State), Finished s → s.runState = .running → s.phase = .inBatch (left + 1) →
    stepWith clockSpeed s = .next { s with phase := .inBatch left }

/-! ### The invariant -/

/-- The invariant holds after reset, at every CLOCK_SPEED. The model's reset values (log 4, 5) enter here. -/
def Obligations.ResetMeetsTheInvariant : Prop := ∀ clockSpeed : Nat, Inv clockSpeed State.reset

/-- R24, R25, R50, R181: every step, from every state that meets the invariant and at every CLOCK_SPEED, answers a state that meets
it: memory stays canonical and below 4096, `PC` never passes 0x10FE, live return addresses stay within 2..4096, and a batch never
exceeds IPT. -/
def Obligations.EveryStepKeepsTheInvariant : Prop :=
  (∀ s t : State, Inv Config.defaultClockSpeed s → step s = .next t → Inv Config.defaultClockSpeed t) ∧
  ∀ (clockSpeed : Nat) (s t : State), Inv clockSpeed s → stepWith clockSpeed s = .next t → Inv clockSpeed t
end

