-- ==== Sys2Proof/Laws/Decode.lean ====
section
/-! SUPPORT. The fields of an encoded word, a word as its four nibbles, and the words under the masks of the opcode table. -/

namespace Sys2Proof

theorem nib_toNat (r : Fin 16) : (nib r).toNat = r.val := by
  simp only [nib, BitVec.toNat_ofNat]
  exact Nat.mod_eq_of_lt (show r.val < 2 ^ 4 from r.isLt)

theorem extractLsb'_append_low {n m : Nat} (a : BitVec n) (b : BitVec m) : (a ++ b).extractLsb' 0 m = b := by
  ext i hi
  simp [BitVec.getLsbD_append, hi]

theorem extractLsb'_append_high {n m : Nat} (a : BitVec n) (b : BitVec m) : (a ++ b).extractLsb' m n = a := by
  ext i hi
  simp [BitVec.getLsbD_append, hi]

theorem extractLsb'_append_shift {n m : Nat} (a : BitVec n) (b : BitVec m) (s l : Nat) :
    (a ++ b).extractLsb' (m + s) l = a.extractLsb' s l := by
  ext i hi
  have h1 : ¬ (m + s + i < m) := by omega
  have h2 : m + s + i - m = s + i := by omega
  simp [BitVec.getLsbD_append, h1, h2]

/-- A word is its top nibble and its low twelve bits. -/
theorem word_eq_OP_NNN (w : Word) : (fieldOP w ++ fieldNNN w : BitVec (4 + 12)) = w := by
  ext i hi
  simp only [fieldOP, fieldNNN, BitVec.getElem_append, BitVec.getElem_extractLsb']
  split
  · rw [Nat.zero_add]; rfl
  · rw [show 12 + (i - 12) = i by omega]; rfl

/-- `NN` is `Y` and `N` (R71). -/
theorem fieldNN_eq (w : Word) : (nib (fieldY w) ++ nib (fieldN w) : BitVec (4 + 4)) = fieldNN w := by
  have hY : nib (fieldY w) = w.extractLsb' 4 4 := BitVec.eq_of_toNat_eq (by rw [nib_toNat]; rfl)
  have hN : nib (fieldN w) = w.extractLsb' 0 4 := BitVec.eq_of_toNat_eq (by rw [nib_toNat]; rfl)
  rw [hY, hN]
  ext i hi
  simp only [fieldNN, BitVec.getElem_append, BitVec.getElem_extractLsb']
  split
  · rfl
  · rw [show 4 + (i - 4) = 0 + i by omega]

/-- `NNN` is `X` and `NN` (R71). -/
theorem fieldNNN_eq (w : Word) : (nib (fieldX w) ++ fieldNN w : BitVec (4 + 8)) = fieldNNN w := by
  have hX : nib (fieldX w) = w.extractLsb' 8 4 := BitVec.eq_of_toNat_eq (by rw [nib_toNat]; rfl)
  rw [hX]
  ext i hi
  simp only [fieldNNN, fieldNN, BitVec.getElem_append, BitVec.getElem_extractLsb']
  split
  · rfl
  · rw [show 8 + (i - 8) = 0 + i by omega]

theorem fieldOP_encNNN (op : BitVec 4) (nnn : Addr12) : fieldOP (encNNN op nnn) = op := extractLsb'_append_high op nnn
theorem fieldNNN_encNNN (op : BitVec 4) (nnn : Addr12) : fieldNNN (encNNN op nnn) = nnn := extractLsb'_append_low op nnn

theorem encXNN_eq (op : BitVec 4) (x : Reg) (nn : Byte) : encXNN op x nn = encNNN op (nib x ++ nn) := by
  unfold encXNN encNNN
  exact BitVec.append_assoc

theorem encXYN_eq (op : BitVec 4) (x y : Reg) (n : Nibble) : encXYN op x y n = encXNN op x (nib y ++ nib n) := by
  unfold encXYN encXNN
  exact BitVec.append_assoc

theorem fieldOP_encXNN (op : BitVec 4) (x : Reg) (nn : Byte) : fieldOP (encXNN op x nn) = op := by
  rw [encXNN_eq, fieldOP_encNNN]

theorem fieldNN_encXNN (op : BitVec 4) (x : Reg) (nn : Byte) : fieldNN (encXNN op x nn) = nn :=
  extractLsb'_append_low (op ++ nib x) nn

theorem fieldX_encXNN (op : BitVec 4) (x : Reg) (nn : Byte) : fieldX (encXNN op x nn) = x := by
  apply Fin.ext
  have h : (encXNN op x nn).extractLsb' 8 4 = nib x :=
    (extractLsb'_append_shift (op ++ nib x) nn 0 4).trans (extractLsb'_append_low op (nib x))
  show ((encXNN op x nn).extractLsb' 8 4).toNat = x.val
  rw [h, nib_toNat]

theorem fieldOP_encXYN (op : BitVec 4) (x y : Reg) (n : Nibble) : fieldOP (encXYN op x y n) = op := by
  rw [encXYN_eq, fieldOP_encXNN]

theorem fieldX_encXYN (op : BitVec 4) (x y : Reg) (n : Nibble) : fieldX (encXYN op x y n) = x := by
  rw [encXYN_eq, fieldX_encXNN]

theorem fieldN_encXYN (op : BitVec 4) (x y : Reg) (n : Nibble) : fieldN (encXYN op x y n) = n := by
  apply Fin.ext
  have h : (encXYN op x y n).extractLsb' 0 4 = nib n := extractLsb'_append_low ((op ++ nib x) ++ nib y) (nib n)
  show ((encXYN op x y n).extractLsb' 0 4).toNat = n.val
  rw [h, nib_toNat]

theorem fieldY_encXYN (op : BitVec 4) (x y : Reg) (n : Nibble) : fieldY (encXYN op x y n) = y := by
  apply Fin.ext
  have h : (encXYN op x y n).extractLsb' 4 4 = nib y :=
    (extractLsb'_append_shift ((op ++ nib x) ++ nib y) (nib n) 0 4).trans (extractLsb'_append_low (op ++ nib x) (nib y))
  show ((encXYN op x y n).extractLsb' 4 4).toNat = y.val
  rw [h, nib_toNat]

/-! ### The masks of R75 -/

theorem append_and {n m : Nat} (a c : BitVec n) (b d : BitVec m) : (a ++ b) &&& (c ++ d) = (a &&& c) ++ (b &&& d) := by
  ext i hi
  simp only [BitVec.getElem_and, BitVec.getElem_append]
  split <;> rfl

theorem and_F000 (op : BitVec 4) (nnn : Addr12) : encNNN op nnn &&& 0xF000 = encNNN op 0 := by
  have h : (0xF000 : Word) = (0xF#4 ++ 0x000#12 : BitVec (4 + 12)) := by decide
  have ho : op &&& 0xF#4 = op := by revert op; decide
  rw [h]
  refine (append_and op 0xF#4 nnn 0x000#12).trans ?_
  rw [ho, BitVec.and_zero]
  rfl

theorem and_F0FF (op : BitVec 4) (x : Reg) (nn : Byte) : encXNN op x nn &&& 0xF0FF = encXNN op 0 nn := by
  have h : (0xF0FF : Word) = ((0xF#4 ++ 0x0#4) ++ 0xFF#8 : BitVec ((4 + 4) + 8)) := by decide
  have ho : op &&& 0xF#4 = op := by revert op; decide
  have hn : nn &&& 0xFF#8 = nn := by exact BitVec.and_allOnes
  rw [h]
  refine (append_and (op ++ nib x) (0xF#4 ++ 0x0#4) nn 0xFF#8).trans ?_
  rw [append_and, ho, hn, BitVec.and_zero]
  rfl

theorem and_F00F (op : BitVec 4) (x y : Reg) (n : Nibble) : encXYN op x y n &&& 0xF00F = encXYN op 0 0 n := by
  have h : (0xF00F : Word) = (((0xF#4 ++ 0x0#4) ++ 0x0#4) ++ 0xF#4 : BitVec (((4 + 4) + 4) + 4)) := by decide
  have ho : ∀ a : BitVec 4, a &&& 0xF#4 = a := by decide
  rw [h]
  refine (append_and ((op ++ nib x) ++ nib y) ((0xF#4 ++ 0x0#4) ++ 0x0#4) (nib n) 0xF#4).trans ?_
  rw [append_and, append_and, ho, ho, BitVec.and_zero, BitVec.and_zero]
  rfl

end Sys2Proof
end

