-- ==== Sys2Proof/Laws/Memory.lean ====
section
/-! SUPPORT. Memory: read after write, the canonical form kept by every operation, and what a run of stores leaves. -/

namespace Sys2Proof.Machine

theorem Memory.read_cons (a : Nat) (b : Byte) (m : Memory) (h : Memory.read m a = Memory.initByte a) (x : Nat) :
    Memory.read (Memory.cons a b m) x = if x = a then b else Memory.read m x := by
  unfold Memory.cons
  by_cases hb : b = Memory.initByte a
  · by_cases hx : x = a <;> simp [hb, hx, h]
  · by_cases hx : x = a
    · simp [hb, hx, Memory.read]
    · simp [hb, hx, Memory.read, Ne.symm hx]

/-- Below its first cell a canonical memory reads as INIT left it. -/
theorem Memory.read_of_wfFrom (m : Memory) (lo a : Nat) (h : Memory.wfFrom lo m = true) (ha : a < lo) :
    Memory.read m a = Memory.initByte a := by
  induction m generalizing lo with
  | nil => rfl
  | cons c m ih =>
    obtain ⟨k, b⟩ := c
    simp only [Memory.wfFrom, Bool.and_eq_true, decide_eq_true_eq] at h
    have hk : k ≠ a := by omega
    simp only [Memory.read, if_neg hk]
    exact ih (k + 1) h.2 (by omega)

theorem Memory.wfFrom_mono (m : Memory) {lo lo' : Nat} (h : Memory.wfFrom lo m = true) (hl : lo' ≤ lo) :
    Memory.wfFrom lo' m = true := by
  cases m with
  | nil => rfl
  | cons c m =>
    obtain ⟨k, b⟩ := c
    simp only [Memory.wfFrom, Bool.and_eq_true, decide_eq_true_eq] at h ⊢
    exact ⟨⟨⟨by omega, h.1.1.2⟩, h.1.2⟩, h.2⟩

theorem Memory.wfFrom_cons (m : Memory) (lo a : Nat) (b : Byte) (h : Memory.wfFrom (a + 1) m = true) (hl : lo ≤ a)
    (ha : a < Config.memSize) : Memory.wfFrom lo (Memory.cons a b m) = true := by
  unfold Memory.cons
  by_cases hb : b = Memory.initByte a
  · rw [if_pos hb]; exact Memory.wfFrom_mono m h (by omega)
  · rw [if_neg hb]
    simp only [Memory.wfFrom, Bool.and_eq_true, decide_eq_true_eq, bne_iff_ne, ne_eq]
    exact ⟨⟨⟨hl, ha⟩, hb⟩, h⟩

/-- A store keeps the canonical form. -/
theorem Memory.wfFrom_write (m : Memory) (lo a : Nat) (b : Byte) (h : Memory.wfFrom lo m = true) (hl : lo ≤ a)
    (ha : a < Config.memSize) : Memory.wfFrom lo (Memory.write m a b) = true := by
  induction m generalizing lo with
  | nil => exact Memory.wfFrom_cons [] lo a b rfl hl ha
  | cons c m ih =>
    obtain ⟨k, d⟩ := c
    have h' := h
    simp only [Memory.wfFrom, Bool.and_eq_true, decide_eq_true_eq] at h
    unfold Memory.write
    split
    · refine Memory.wfFrom_cons _ lo a b ?_ hl ha
      simp only [Memory.wfFrom, Bool.and_eq_true, decide_eq_true_eq]
      exact ⟨⟨⟨by omega, h.1.1.2⟩, h.1.2⟩, h.2⟩
    · split
      · rename_i hk
        exact Memory.wfFrom_cons _ lo a b (hk ▸ h.2) hl ha
      · simp only [Memory.wfFrom, Bool.and_eq_true, decide_eq_true_eq]
        exact ⟨⟨⟨h.1.1.1, h.1.1.2⟩, h.1.2⟩, ih (k + 1) h.2 (by omega)⟩

theorem Memory.wf_write (m : Memory) (a : Nat) (b : Byte) (h : Memory.wf m = true) (ha : a < 4096) :
    Memory.wf (Memory.write m a b) = true := Memory.wfFrom_write m 0 a b h (Nat.zero_le a) ha

/-- A canonical memory reads the stored byte back, and every other byte as before. -/
theorem Memory.read_writeFrom (m : Memory) (lo a : Nat) (b : Byte) (h : Memory.wfFrom lo m = true) (x : Nat) :
    Memory.read (Memory.write m a b) x = if x = a then b else Memory.read m x := by
  induction m generalizing lo with
  | nil => exact Memory.read_cons a b [] rfl x
  | cons c m ih =>
    obtain ⟨k, d⟩ := c
    have h' := h
    simp only [Memory.wfFrom, Bool.and_eq_true, decide_eq_true_eq] at h
    unfold Memory.write
    split
    · rename_i hk
      refine Memory.read_cons a b _ ?_ x
      have hw : Memory.wfFrom (a + 1) ((k, d) :: m) = true := by
        simp only [Memory.wfFrom, Bool.and_eq_true, decide_eq_true_eq]
        exact ⟨⟨⟨by omega, h.1.1.2⟩, h.1.2⟩, h.2⟩
      exact Memory.read_of_wfFrom _ (a + 1) a hw (by omega)
    · split
      · rename_i hk
        subst hk
        rw [Memory.read_cons a b m (Memory.read_of_wfFrom m (a + 1) a h.2 (by omega)) x]
        by_cases hx : x = a
        · simp [hx]
        · simp [hx, Memory.read, Ne.symm hx]
      · rename_i hk hak
        simp only [Memory.read]
        rw [ih (k + 1) h.2]
        by_cases hx : x = a
        · simp [hx, Ne.symm hak]
        · simp [hx]

theorem Memory.read_write (m : Memory) (a : Nat) (b : Byte) (h : Memory.wf m = true) (x : Nat) :
    Memory.read (Memory.write m a b) x = if x = a then b else Memory.read m x := Memory.read_writeFrom m 0 a b h x

/-- Storing a list of bytes keeps the canonical form. -/
theorem Memory.wf_writeBytes (bs : List Byte) (m : Memory) (a : Nat) (h : Memory.wf m = true) (ha : a + bs.length ≤ 4096) :
    Memory.wf (Memory.writeBytes m a bs) = true := by
  induction bs generalizing m a with
  | nil => exact h
  | cons b bs ih =>
    simp only [List.length_cons] at ha
    exact ih _ (a + 1) (Memory.wf_write m a b h (by omega)) (by omega)

/-- Storing a list of bytes: the bytes in order, every other byte as before. -/
theorem Memory.read_writeBytes (bs : List Byte) (m : Memory) (a : Nat) (h : Memory.wf m = true) (ha : a + bs.length ≤ 4096)
    (x : Nat) :
    Memory.read (Memory.writeBytes m a bs) x = if a ≤ x ∧ x < a + bs.length then bs.getD (x - a) 0 else Memory.read m x := by
  induction bs generalizing m a with
  | nil =>
    have hx : ¬ (a ≤ x ∧ x < a + ([] : List Byte).length) := by simp
    rw [if_neg hx]
    rfl
  | cons b bs ih =>
    simp only [List.length_cons] at ha ⊢
    unfold Memory.writeBytes
    rw [ih _ (a + 1) (Memory.wf_write m a b h (by omega)) (by omega), Memory.read_write m a b h]
    by_cases hxa : x = a
    · subst hxa; simp
    · by_cases hx : a + 1 ≤ x ∧ x < a + 1 + bs.length
      · have h2 : a ≤ x ∧ x < a + (bs.length + 1) := by omega
        obtain ⟨k, rfl⟩ : ∃ k, x = a + 1 + k := ⟨x - (a + 1), by omega⟩
        have h3 : a + 1 + k - a = k + 1 := by omega
        rw [if_pos hx, if_pos h2, h3]
        simp
      · have h2 : ¬ (a ≤ x ∧ x < a + (bs.length + 1)) := by omega
        rw [if_neg hx, if_neg hxa, if_neg h2]

/-- FX55's stores keep the canonical form. -/
theorem storeRegs_wf (rs : List Reg) (v : Vector Byte 16) (a : Nat) (m : Memory) (h : Memory.wf m = true)
    (ha : ∀ r ∈ rs, a + r.val < 4096) : Memory.wf (storeRegs v a rs m) = true := by
  induction rs generalizing m with
  | nil => exact h
  | cons r rs ih =>
    exact ih _ (Memory.wf_write m _ _ h (ha r (by simp))) (fun q hq => ha q (by simp [hq]))

/-- A byte FX55 does not store to reads as before. -/
theorem storeRegs_read_other (rs : List Reg) (v : Vector Byte 16) (a : Nat) (m : Memory) (h : Memory.wf m = true)
    (ha : ∀ r ∈ rs, a + r.val < 4096) (x : Nat) (hx : ∀ r ∈ rs, x ≠ a + r.val) :
    Memory.read (storeRegs v a rs m) x = Memory.read m x := by
  induction rs generalizing m with
  | nil => rfl
  | cons r rs ih =>
    unfold storeRegs
    rw [ih _ (Memory.wf_write m _ _ h (ha r (by simp))) (fun q hq => ha q (by simp [hq])) (fun q hq => hx q (by simp [hq])),
      Memory.read_write m _ _ h, if_neg (hx r (by simp))]

/-- A byte FX55 stores to reads as the register stored there. -/
theorem storeRegs_read_stored (rs : List Reg) (v : Vector Byte 16) (a : Nat) (m : Memory) (h : Memory.wf m = true)
    (ha : ∀ r ∈ rs, a + r.val < 4096) (q : Reg) (hq : q ∈ rs) :
    Memory.read (storeRegs v a rs m) (a + q.val) = v.get q := by
  induction rs generalizing m with
  | nil => simp at hq
  | cons r rs ih =>
    unfold storeRegs
    have hw := Memory.wf_write m (a + r.val) (v.get r) h (ha r (by simp))
    have ha' : ∀ p ∈ rs, a + p.val < 4096 := fun p hp => ha p (by simp [hp])
    by_cases hqs : q ∈ rs
    · exact ih _ hw ha' hqs
    · have hqr : q = r := by simpa [hqs] using hq
      subst hqr
      rw [storeRegs_read_other rs v a _ hw ha' _ ?_, Memory.read_write m _ _ h, if_pos rfl]
      intro p hp hpq
      exact hqs ((Fin.ext (by omega : q.val = p.val)) ▸ hp)

theorem mem_regsUpTo (x r : Reg) : r ∈ regsUpTo x ↔ r ≤ x := by
  have hr : r ∈ allRegs := by revert r; decide
  simp [regsUpTo, hr]

end Sys2Proof.Machine
end

