-- ==== Sys2Proof/Laws/State.lean ====
section
/-! SUPPORT. One lemma per field per update of the state, so that no proof unfolds a record update. -/

namespace Sys2Proof.Machine

variable (s : State)

@[simp] theorem State.setMem_mem (m : Memory) : (s.setMem m).mem = m := rfl
@[simp] theorem State.setMem_v (m : Memory) : (s.setMem m).v = s.v := rfl
@[simp] theorem State.setMem_i (m : Memory) : (s.setMem m).i = s.i := rfl
@[simp] theorem State.setMem_pc (m : Memory) : (s.setMem m).pc = s.pc := rfl
@[simp] theorem State.setMem_stack (m : Memory) : (s.setMem m).stack = s.stack := rfl
@[simp] theorem State.setMem_sp (m : Memory) : (s.setMem m).sp = s.sp := rfl
@[simp] theorem State.setMem_dt (m : Memory) : (s.setMem m).dt = s.dt := rfl
@[simp] theorem State.setMem_st (m : Memory) : (s.setMem m).st = s.st := rfl
@[simp] theorem State.setMem_keys (m : Memory) : (s.setMem m).keys = s.keys := rfl
@[simp] theorem State.setMem_display (m : Memory) : (s.setMem m).display = s.display := rfl
@[simp] theorem State.setMem_runState (m : Memory) : (s.setMem m).runState = s.runState := rfl
@[simp] theorem State.setMem_redraw (m : Memory) : (s.setMem m).redraw = s.redraw := rfl
@[simp] theorem State.setMem_fault (m : Memory) : (s.setMem m).fault = s.fault := rfl
@[simp] theorem State.setMem_phase (m : Memory) : (s.setMem m).phase = s.phase := rfl
@[simp] theorem State.setMem_redrawOut (m : Memory) : (s.setMem m).redrawOut = s.redrawOut := rfl
@[simp] theorem State.setMem_moves (m : Memory) : (s.setMem m).moves = s.moves := rfl
@[simp] theorem State.setMem_ticks (m : Memory) : (s.setMem m).ticks = s.ticks := rfl
@[simp] theorem State.setMem_rndIn (m : Memory) : (s.setMem m).rndIn = s.rndIn := rfl
@[simp] theorem State.setMem_draws (m : Memory) : (s.setMem m).draws = s.draws := rfl

@[simp] theorem State.setRegs_mem (w : Vector Byte 16) : (s.setRegs w).mem = s.mem := rfl
@[simp] theorem State.setRegs_v (w : Vector Byte 16) : (s.setRegs w).v = w := rfl
@[simp] theorem State.setRegs_i (w : Vector Byte 16) : (s.setRegs w).i = s.i := rfl
@[simp] theorem State.setRegs_pc (w : Vector Byte 16) : (s.setRegs w).pc = s.pc := rfl
@[simp] theorem State.setRegs_stack (w : Vector Byte 16) : (s.setRegs w).stack = s.stack := rfl
@[simp] theorem State.setRegs_sp (w : Vector Byte 16) : (s.setRegs w).sp = s.sp := rfl
@[simp] theorem State.setRegs_dt (w : Vector Byte 16) : (s.setRegs w).dt = s.dt := rfl
@[simp] theorem State.setRegs_st (w : Vector Byte 16) : (s.setRegs w).st = s.st := rfl
@[simp] theorem State.setRegs_keys (w : Vector Byte 16) : (s.setRegs w).keys = s.keys := rfl
@[simp] theorem State.setRegs_display (w : Vector Byte 16) : (s.setRegs w).display = s.display := rfl
@[simp] theorem State.setRegs_runState (w : Vector Byte 16) : (s.setRegs w).runState = s.runState := rfl
@[simp] theorem State.setRegs_redraw (w : Vector Byte 16) : (s.setRegs w).redraw = s.redraw := rfl
@[simp] theorem State.setRegs_fault (w : Vector Byte 16) : (s.setRegs w).fault = s.fault := rfl
@[simp] theorem State.setRegs_phase (w : Vector Byte 16) : (s.setRegs w).phase = s.phase := rfl
@[simp] theorem State.setRegs_redrawOut (w : Vector Byte 16) : (s.setRegs w).redrawOut = s.redrawOut := rfl
@[simp] theorem State.setRegs_moves (w : Vector Byte 16) : (s.setRegs w).moves = s.moves := rfl
@[simp] theorem State.setRegs_ticks (w : Vector Byte 16) : (s.setRegs w).ticks = s.ticks := rfl
@[simp] theorem State.setRegs_rndIn (w : Vector Byte 16) : (s.setRegs w).rndIn = s.rndIn := rfl
@[simp] theorem State.setRegs_draws (w : Vector Byte 16) : (s.setRegs w).draws = s.draws := rfl

@[simp] theorem State.setI_mem (w : Word) : (s.setI w).mem = s.mem := rfl
@[simp] theorem State.setI_v (w : Word) : (s.setI w).v = s.v := rfl
@[simp] theorem State.setI_i (w : Word) : (s.setI w).i = w := rfl
@[simp] theorem State.setI_pc (w : Word) : (s.setI w).pc = s.pc := rfl
@[simp] theorem State.setI_stack (w : Word) : (s.setI w).stack = s.stack := rfl
@[simp] theorem State.setI_sp (w : Word) : (s.setI w).sp = s.sp := rfl
@[simp] theorem State.setI_dt (w : Word) : (s.setI w).dt = s.dt := rfl
@[simp] theorem State.setI_st (w : Word) : (s.setI w).st = s.st := rfl
@[simp] theorem State.setI_keys (w : Word) : (s.setI w).keys = s.keys := rfl
@[simp] theorem State.setI_display (w : Word) : (s.setI w).display = s.display := rfl
@[simp] theorem State.setI_runState (w : Word) : (s.setI w).runState = s.runState := rfl
@[simp] theorem State.setI_redraw (w : Word) : (s.setI w).redraw = s.redraw := rfl
@[simp] theorem State.setI_fault (w : Word) : (s.setI w).fault = s.fault := rfl
@[simp] theorem State.setI_phase (w : Word) : (s.setI w).phase = s.phase := rfl
@[simp] theorem State.setI_redrawOut (w : Word) : (s.setI w).redrawOut = s.redrawOut := rfl
@[simp] theorem State.setI_moves (w : Word) : (s.setI w).moves = s.moves := rfl
@[simp] theorem State.setI_ticks (w : Word) : (s.setI w).ticks = s.ticks := rfl
@[simp] theorem State.setI_rndIn (w : Word) : (s.setI w).rndIn = s.rndIn := rfl
@[simp] theorem State.setI_draws (w : Word) : (s.setI w).draws = s.draws := rfl

@[simp] theorem State.setPc_mem (w : Word) : (s.setPc w).mem = s.mem := rfl
@[simp] theorem State.setPc_v (w : Word) : (s.setPc w).v = s.v := rfl
@[simp] theorem State.setPc_i (w : Word) : (s.setPc w).i = s.i := rfl
@[simp] theorem State.setPc_pc (w : Word) : (s.setPc w).pc = w := rfl
@[simp] theorem State.setPc_stack (w : Word) : (s.setPc w).stack = s.stack := rfl
@[simp] theorem State.setPc_sp (w : Word) : (s.setPc w).sp = s.sp := rfl
@[simp] theorem State.setPc_dt (w : Word) : (s.setPc w).dt = s.dt := rfl
@[simp] theorem State.setPc_st (w : Word) : (s.setPc w).st = s.st := rfl
@[simp] theorem State.setPc_keys (w : Word) : (s.setPc w).keys = s.keys := rfl
@[simp] theorem State.setPc_display (w : Word) : (s.setPc w).display = s.display := rfl
@[simp] theorem State.setPc_runState (w : Word) : (s.setPc w).runState = s.runState := rfl
@[simp] theorem State.setPc_redraw (w : Word) : (s.setPc w).redraw = s.redraw := rfl
@[simp] theorem State.setPc_fault (w : Word) : (s.setPc w).fault = s.fault := rfl
@[simp] theorem State.setPc_phase (w : Word) : (s.setPc w).phase = s.phase := rfl
@[simp] theorem State.setPc_redrawOut (w : Word) : (s.setPc w).redrawOut = s.redrawOut := rfl
@[simp] theorem State.setPc_moves (w : Word) : (s.setPc w).moves = s.moves := rfl
@[simp] theorem State.setPc_ticks (w : Word) : (s.setPc w).ticks = s.ticks := rfl
@[simp] theorem State.setPc_rndIn (w : Word) : (s.setPc w).rndIn = s.rndIn := rfl
@[simp] theorem State.setPc_draws (w : Word) : (s.setPc w).draws = s.draws := rfl

@[simp] theorem State.setStack_mem (k : Vector Word 12) (n : Fin 13) : (s.setStack k n).mem = s.mem := rfl
@[simp] theorem State.setStack_v (k : Vector Word 12) (n : Fin 13) : (s.setStack k n).v = s.v := rfl
@[simp] theorem State.setStack_i (k : Vector Word 12) (n : Fin 13) : (s.setStack k n).i = s.i := rfl
@[simp] theorem State.setStack_pc (k : Vector Word 12) (n : Fin 13) : (s.setStack k n).pc = s.pc := rfl
@[simp] theorem State.setStack_stack (k : Vector Word 12) (n : Fin 13) : (s.setStack k n).stack = k := rfl
@[simp] theorem State.setStack_sp (k : Vector Word 12) (n : Fin 13) : (s.setStack k n).sp = n := rfl
@[simp] theorem State.setStack_dt (k : Vector Word 12) (n : Fin 13) : (s.setStack k n).dt = s.dt := rfl
@[simp] theorem State.setStack_st (k : Vector Word 12) (n : Fin 13) : (s.setStack k n).st = s.st := rfl
@[simp] theorem State.setStack_keys (k : Vector Word 12) (n : Fin 13) : (s.setStack k n).keys = s.keys := rfl
@[simp] theorem State.setStack_display (k : Vector Word 12) (n : Fin 13) : (s.setStack k n).display = s.display := rfl
@[simp] theorem State.setStack_runState (k : Vector Word 12) (n : Fin 13) : (s.setStack k n).runState = s.runState := rfl
@[simp] theorem State.setStack_redraw (k : Vector Word 12) (n : Fin 13) : (s.setStack k n).redraw = s.redraw := rfl
@[simp] theorem State.setStack_fault (k : Vector Word 12) (n : Fin 13) : (s.setStack k n).fault = s.fault := rfl
@[simp] theorem State.setStack_phase (k : Vector Word 12) (n : Fin 13) : (s.setStack k n).phase = s.phase := rfl
@[simp] theorem State.setStack_redrawOut (k : Vector Word 12) (n : Fin 13) : (s.setStack k n).redrawOut = s.redrawOut := rfl
@[simp] theorem State.setStack_moves (k : Vector Word 12) (n : Fin 13) : (s.setStack k n).moves = s.moves := rfl
@[simp] theorem State.setStack_ticks (k : Vector Word 12) (n : Fin 13) : (s.setStack k n).ticks = s.ticks := rfl
@[simp] theorem State.setStack_rndIn (k : Vector Word 12) (n : Fin 13) : (s.setStack k n).rndIn = s.rndIn := rfl
@[simp] theorem State.setStack_draws (k : Vector Word 12) (n : Fin 13) : (s.setStack k n).draws = s.draws := rfl

@[simp] theorem State.setDt_mem (b : Byte) : (s.setDt b).mem = s.mem := rfl
@[simp] theorem State.setDt_v (b : Byte) : (s.setDt b).v = s.v := rfl
@[simp] theorem State.setDt_i (b : Byte) : (s.setDt b).i = s.i := rfl
@[simp] theorem State.setDt_pc (b : Byte) : (s.setDt b).pc = s.pc := rfl
@[simp] theorem State.setDt_stack (b : Byte) : (s.setDt b).stack = s.stack := rfl
@[simp] theorem State.setDt_sp (b : Byte) : (s.setDt b).sp = s.sp := rfl
@[simp] theorem State.setDt_dt (b : Byte) : (s.setDt b).dt = b := rfl
@[simp] theorem State.setDt_st (b : Byte) : (s.setDt b).st = s.st := rfl
@[simp] theorem State.setDt_keys (b : Byte) : (s.setDt b).keys = s.keys := rfl
@[simp] theorem State.setDt_display (b : Byte) : (s.setDt b).display = s.display := rfl
@[simp] theorem State.setDt_runState (b : Byte) : (s.setDt b).runState = s.runState := rfl
@[simp] theorem State.setDt_redraw (b : Byte) : (s.setDt b).redraw = s.redraw := rfl
@[simp] theorem State.setDt_fault (b : Byte) : (s.setDt b).fault = s.fault := rfl
@[simp] theorem State.setDt_phase (b : Byte) : (s.setDt b).phase = s.phase := rfl
@[simp] theorem State.setDt_redrawOut (b : Byte) : (s.setDt b).redrawOut = s.redrawOut := rfl
@[simp] theorem State.setDt_moves (b : Byte) : (s.setDt b).moves = s.moves := rfl
@[simp] theorem State.setDt_ticks (b : Byte) : (s.setDt b).ticks = s.ticks := rfl
@[simp] theorem State.setDt_rndIn (b : Byte) : (s.setDt b).rndIn = s.rndIn := rfl
@[simp] theorem State.setDt_draws (b : Byte) : (s.setDt b).draws = s.draws := rfl

@[simp] theorem State.setSt_mem (b : Byte) : (s.setSt b).mem = s.mem := rfl
@[simp] theorem State.setSt_v (b : Byte) : (s.setSt b).v = s.v := rfl
@[simp] theorem State.setSt_i (b : Byte) : (s.setSt b).i = s.i := rfl
@[simp] theorem State.setSt_pc (b : Byte) : (s.setSt b).pc = s.pc := rfl
@[simp] theorem State.setSt_stack (b : Byte) : (s.setSt b).stack = s.stack := rfl
@[simp] theorem State.setSt_sp (b : Byte) : (s.setSt b).sp = s.sp := rfl
@[simp] theorem State.setSt_dt (b : Byte) : (s.setSt b).dt = s.dt := rfl
@[simp] theorem State.setSt_st (b : Byte) : (s.setSt b).st = b := rfl
@[simp] theorem State.setSt_keys (b : Byte) : (s.setSt b).keys = s.keys := rfl
@[simp] theorem State.setSt_display (b : Byte) : (s.setSt b).display = s.display := rfl
@[simp] theorem State.setSt_runState (b : Byte) : (s.setSt b).runState = s.runState := rfl
@[simp] theorem State.setSt_redraw (b : Byte) : (s.setSt b).redraw = s.redraw := rfl
@[simp] theorem State.setSt_fault (b : Byte) : (s.setSt b).fault = s.fault := rfl
@[simp] theorem State.setSt_phase (b : Byte) : (s.setSt b).phase = s.phase := rfl
@[simp] theorem State.setSt_redrawOut (b : Byte) : (s.setSt b).redrawOut = s.redrawOut := rfl
@[simp] theorem State.setSt_moves (b : Byte) : (s.setSt b).moves = s.moves := rfl
@[simp] theorem State.setSt_ticks (b : Byte) : (s.setSt b).ticks = s.ticks := rfl
@[simp] theorem State.setSt_rndIn (b : Byte) : (s.setSt b).rndIn = s.rndIn := rfl
@[simp] theorem State.setSt_draws (b : Byte) : (s.setSt b).draws = s.draws := rfl

@[simp] theorem State.setKeys_mem (k : Vector Bool 16) : (s.setKeys k).mem = s.mem := rfl
@[simp] theorem State.setKeys_v (k : Vector Bool 16) : (s.setKeys k).v = s.v := rfl
@[simp] theorem State.setKeys_i (k : Vector Bool 16) : (s.setKeys k).i = s.i := rfl
@[simp] theorem State.setKeys_pc (k : Vector Bool 16) : (s.setKeys k).pc = s.pc := rfl
@[simp] theorem State.setKeys_stack (k : Vector Bool 16) : (s.setKeys k).stack = s.stack := rfl
@[simp] theorem State.setKeys_sp (k : Vector Bool 16) : (s.setKeys k).sp = s.sp := rfl
@[simp] theorem State.setKeys_dt (k : Vector Bool 16) : (s.setKeys k).dt = s.dt := rfl
@[simp] theorem State.setKeys_st (k : Vector Bool 16) : (s.setKeys k).st = s.st := rfl
@[simp] theorem State.setKeys_keys (k : Vector Bool 16) : (s.setKeys k).keys = k := rfl
@[simp] theorem State.setKeys_display (k : Vector Bool 16) : (s.setKeys k).display = s.display := rfl
@[simp] theorem State.setKeys_runState (k : Vector Bool 16) : (s.setKeys k).runState = s.runState := rfl
@[simp] theorem State.setKeys_redraw (k : Vector Bool 16) : (s.setKeys k).redraw = s.redraw := rfl
@[simp] theorem State.setKeys_fault (k : Vector Bool 16) : (s.setKeys k).fault = s.fault := rfl
@[simp] theorem State.setKeys_phase (k : Vector Bool 16) : (s.setKeys k).phase = s.phase := rfl
@[simp] theorem State.setKeys_redrawOut (k : Vector Bool 16) : (s.setKeys k).redrawOut = s.redrawOut := rfl
@[simp] theorem State.setKeys_moves (k : Vector Bool 16) : (s.setKeys k).moves = s.moves := rfl
@[simp] theorem State.setKeys_ticks (k : Vector Bool 16) : (s.setKeys k).ticks = s.ticks := rfl
@[simp] theorem State.setKeys_rndIn (k : Vector Bool 16) : (s.setKeys k).rndIn = s.rndIn := rfl
@[simp] theorem State.setKeys_draws (k : Vector Bool 16) : (s.setKeys k).draws = s.draws := rfl

@[simp] theorem State.setDisplay_mem (d : Display) : (s.setDisplay d).mem = s.mem := rfl
@[simp] theorem State.setDisplay_v (d : Display) : (s.setDisplay d).v = s.v := rfl
@[simp] theorem State.setDisplay_i (d : Display) : (s.setDisplay d).i = s.i := rfl
@[simp] theorem State.setDisplay_pc (d : Display) : (s.setDisplay d).pc = s.pc := rfl
@[simp] theorem State.setDisplay_stack (d : Display) : (s.setDisplay d).stack = s.stack := rfl
@[simp] theorem State.setDisplay_sp (d : Display) : (s.setDisplay d).sp = s.sp := rfl
@[simp] theorem State.setDisplay_dt (d : Display) : (s.setDisplay d).dt = s.dt := rfl
@[simp] theorem State.setDisplay_st (d : Display) : (s.setDisplay d).st = s.st := rfl
@[simp] theorem State.setDisplay_keys (d : Display) : (s.setDisplay d).keys = s.keys := rfl
@[simp] theorem State.setDisplay_display (d : Display) : (s.setDisplay d).display = d := rfl
@[simp] theorem State.setDisplay_runState (d : Display) : (s.setDisplay d).runState = s.runState := rfl
@[simp] theorem State.setDisplay_redraw (d : Display) : (s.setDisplay d).redraw = s.redraw := rfl
@[simp] theorem State.setDisplay_fault (d : Display) : (s.setDisplay d).fault = s.fault := rfl
@[simp] theorem State.setDisplay_phase (d : Display) : (s.setDisplay d).phase = s.phase := rfl
@[simp] theorem State.setDisplay_redrawOut (d : Display) : (s.setDisplay d).redrawOut = s.redrawOut := rfl
@[simp] theorem State.setDisplay_moves (d : Display) : (s.setDisplay d).moves = s.moves := rfl
@[simp] theorem State.setDisplay_ticks (d : Display) : (s.setDisplay d).ticks = s.ticks := rfl
@[simp] theorem State.setDisplay_rndIn (d : Display) : (s.setDisplay d).rndIn = s.rndIn := rfl
@[simp] theorem State.setDisplay_draws (d : Display) : (s.setDisplay d).draws = s.draws := rfl

@[simp] theorem State.setRunState_mem (r : RunState) : (s.setRunState r).mem = s.mem := rfl
@[simp] theorem State.setRunState_v (r : RunState) : (s.setRunState r).v = s.v := rfl
@[simp] theorem State.setRunState_i (r : RunState) : (s.setRunState r).i = s.i := rfl
@[simp] theorem State.setRunState_pc (r : RunState) : (s.setRunState r).pc = s.pc := rfl
@[simp] theorem State.setRunState_stack (r : RunState) : (s.setRunState r).stack = s.stack := rfl
@[simp] theorem State.setRunState_sp (r : RunState) : (s.setRunState r).sp = s.sp := rfl
@[simp] theorem State.setRunState_dt (r : RunState) : (s.setRunState r).dt = s.dt := rfl
@[simp] theorem State.setRunState_st (r : RunState) : (s.setRunState r).st = s.st := rfl
@[simp] theorem State.setRunState_keys (r : RunState) : (s.setRunState r).keys = s.keys := rfl
@[simp] theorem State.setRunState_display (r : RunState) : (s.setRunState r).display = s.display := rfl
@[simp] theorem State.setRunState_runState (r : RunState) : (s.setRunState r).runState = r := rfl
@[simp] theorem State.setRunState_redraw (r : RunState) : (s.setRunState r).redraw = s.redraw := rfl
@[simp] theorem State.setRunState_fault (r : RunState) : (s.setRunState r).fault = s.fault := rfl
@[simp] theorem State.setRunState_phase (r : RunState) : (s.setRunState r).phase = s.phase := rfl
@[simp] theorem State.setRunState_redrawOut (r : RunState) : (s.setRunState r).redrawOut = s.redrawOut := rfl
@[simp] theorem State.setRunState_moves (r : RunState) : (s.setRunState r).moves = s.moves := rfl
@[simp] theorem State.setRunState_ticks (r : RunState) : (s.setRunState r).ticks = s.ticks := rfl
@[simp] theorem State.setRunState_rndIn (r : RunState) : (s.setRunState r).rndIn = s.rndIn := rfl
@[simp] theorem State.setRunState_draws (r : RunState) : (s.setRunState r).draws = s.draws := rfl

@[simp] theorem State.setRedraw_mem (b : Bool) : (s.setRedraw b).mem = s.mem := rfl
@[simp] theorem State.setRedraw_v (b : Bool) : (s.setRedraw b).v = s.v := rfl
@[simp] theorem State.setRedraw_i (b : Bool) : (s.setRedraw b).i = s.i := rfl
@[simp] theorem State.setRedraw_pc (b : Bool) : (s.setRedraw b).pc = s.pc := rfl
@[simp] theorem State.setRedraw_stack (b : Bool) : (s.setRedraw b).stack = s.stack := rfl
@[simp] theorem State.setRedraw_sp (b : Bool) : (s.setRedraw b).sp = s.sp := rfl
@[simp] theorem State.setRedraw_dt (b : Bool) : (s.setRedraw b).dt = s.dt := rfl
@[simp] theorem State.setRedraw_st (b : Bool) : (s.setRedraw b).st = s.st := rfl
@[simp] theorem State.setRedraw_keys (b : Bool) : (s.setRedraw b).keys = s.keys := rfl
@[simp] theorem State.setRedraw_display (b : Bool) : (s.setRedraw b).display = s.display := rfl
@[simp] theorem State.setRedraw_runState (b : Bool) : (s.setRedraw b).runState = s.runState := rfl
@[simp] theorem State.setRedraw_redraw (b : Bool) : (s.setRedraw b).redraw = b := rfl
@[simp] theorem State.setRedraw_fault (b : Bool) : (s.setRedraw b).fault = s.fault := rfl
@[simp] theorem State.setRedraw_phase (b : Bool) : (s.setRedraw b).phase = s.phase := rfl
@[simp] theorem State.setRedraw_redrawOut (b : Bool) : (s.setRedraw b).redrawOut = s.redrawOut := rfl
@[simp] theorem State.setRedraw_moves (b : Bool) : (s.setRedraw b).moves = s.moves := rfl
@[simp] theorem State.setRedraw_ticks (b : Bool) : (s.setRedraw b).ticks = s.ticks := rfl
@[simp] theorem State.setRedraw_rndIn (b : Bool) : (s.setRedraw b).rndIn = s.rndIn := rfl
@[simp] theorem State.setRedraw_draws (b : Bool) : (s.setRedraw b).draws = s.draws := rfl

@[simp] theorem State.setFault_mem (c : FaultCode) : (s.setFault c).mem = s.mem := rfl
@[simp] theorem State.setFault_v (c : FaultCode) : (s.setFault c).v = s.v := rfl
@[simp] theorem State.setFault_i (c : FaultCode) : (s.setFault c).i = s.i := rfl
@[simp] theorem State.setFault_pc (c : FaultCode) : (s.setFault c).pc = s.pc := rfl
@[simp] theorem State.setFault_stack (c : FaultCode) : (s.setFault c).stack = s.stack := rfl
@[simp] theorem State.setFault_sp (c : FaultCode) : (s.setFault c).sp = s.sp := rfl
@[simp] theorem State.setFault_dt (c : FaultCode) : (s.setFault c).dt = s.dt := rfl
@[simp] theorem State.setFault_st (c : FaultCode) : (s.setFault c).st = s.st := rfl
@[simp] theorem State.setFault_keys (c : FaultCode) : (s.setFault c).keys = s.keys := rfl
@[simp] theorem State.setFault_display (c : FaultCode) : (s.setFault c).display = s.display := rfl
@[simp] theorem State.setFault_runState (c : FaultCode) : (s.setFault c).runState = s.runState := rfl
@[simp] theorem State.setFault_redraw (c : FaultCode) : (s.setFault c).redraw = s.redraw := rfl
@[simp] theorem State.setFault_fault (c : FaultCode) : (s.setFault c).fault = some c := rfl
@[simp] theorem State.setFault_phase (c : FaultCode) : (s.setFault c).phase = s.phase := rfl
@[simp] theorem State.setFault_redrawOut (c : FaultCode) : (s.setFault c).redrawOut = s.redrawOut := rfl
@[simp] theorem State.setFault_moves (c : FaultCode) : (s.setFault c).moves = s.moves := rfl
@[simp] theorem State.setFault_ticks (c : FaultCode) : (s.setFault c).ticks = s.ticks := rfl
@[simp] theorem State.setFault_rndIn (c : FaultCode) : (s.setFault c).rndIn = s.rndIn := rfl
@[simp] theorem State.setFault_draws (c : FaultCode) : (s.setFault c).draws = s.draws := rfl

@[simp] theorem State.setPhase_mem (p : Phase) : (s.setPhase p).mem = s.mem := rfl
@[simp] theorem State.setPhase_v (p : Phase) : (s.setPhase p).v = s.v := rfl
@[simp] theorem State.setPhase_i (p : Phase) : (s.setPhase p).i = s.i := rfl
@[simp] theorem State.setPhase_pc (p : Phase) : (s.setPhase p).pc = s.pc := rfl
@[simp] theorem State.setPhase_stack (p : Phase) : (s.setPhase p).stack = s.stack := rfl
@[simp] theorem State.setPhase_sp (p : Phase) : (s.setPhase p).sp = s.sp := rfl
@[simp] theorem State.setPhase_dt (p : Phase) : (s.setPhase p).dt = s.dt := rfl
@[simp] theorem State.setPhase_st (p : Phase) : (s.setPhase p).st = s.st := rfl
@[simp] theorem State.setPhase_keys (p : Phase) : (s.setPhase p).keys = s.keys := rfl
@[simp] theorem State.setPhase_display (p : Phase) : (s.setPhase p).display = s.display := rfl
@[simp] theorem State.setPhase_runState (p : Phase) : (s.setPhase p).runState = s.runState := rfl
@[simp] theorem State.setPhase_redraw (p : Phase) : (s.setPhase p).redraw = s.redraw := rfl
@[simp] theorem State.setPhase_fault (p : Phase) : (s.setPhase p).fault = s.fault := rfl
@[simp] theorem State.setPhase_phase (p : Phase) : (s.setPhase p).phase = p := rfl
@[simp] theorem State.setPhase_redrawOut (p : Phase) : (s.setPhase p).redrawOut = s.redrawOut := rfl
@[simp] theorem State.setPhase_moves (p : Phase) : (s.setPhase p).moves = s.moves := rfl
@[simp] theorem State.setPhase_ticks (p : Phase) : (s.setPhase p).ticks = s.ticks := rfl
@[simp] theorem State.setPhase_rndIn (p : Phase) : (s.setPhase p).rndIn = s.rndIn := rfl
@[simp] theorem State.setPhase_draws (p : Phase) : (s.setPhase p).draws = s.draws := rfl

@[simp] theorem State.setRedrawOut_mem (b : Bool) : (s.setRedrawOut b).mem = s.mem := rfl
@[simp] theorem State.setRedrawOut_v (b : Bool) : (s.setRedrawOut b).v = s.v := rfl
@[simp] theorem State.setRedrawOut_i (b : Bool) : (s.setRedrawOut b).i = s.i := rfl
@[simp] theorem State.setRedrawOut_pc (b : Bool) : (s.setRedrawOut b).pc = s.pc := rfl
@[simp] theorem State.setRedrawOut_stack (b : Bool) : (s.setRedrawOut b).stack = s.stack := rfl
@[simp] theorem State.setRedrawOut_sp (b : Bool) : (s.setRedrawOut b).sp = s.sp := rfl
@[simp] theorem State.setRedrawOut_dt (b : Bool) : (s.setRedrawOut b).dt = s.dt := rfl
@[simp] theorem State.setRedrawOut_st (b : Bool) : (s.setRedrawOut b).st = s.st := rfl
@[simp] theorem State.setRedrawOut_keys (b : Bool) : (s.setRedrawOut b).keys = s.keys := rfl
@[simp] theorem State.setRedrawOut_display (b : Bool) : (s.setRedrawOut b).display = s.display := rfl
@[simp] theorem State.setRedrawOut_runState (b : Bool) : (s.setRedrawOut b).runState = s.runState := rfl
@[simp] theorem State.setRedrawOut_redraw (b : Bool) : (s.setRedrawOut b).redraw = s.redraw := rfl
@[simp] theorem State.setRedrawOut_fault (b : Bool) : (s.setRedrawOut b).fault = s.fault := rfl
@[simp] theorem State.setRedrawOut_phase (b : Bool) : (s.setRedrawOut b).phase = s.phase := rfl
@[simp] theorem State.setRedrawOut_redrawOut (b : Bool) : (s.setRedrawOut b).redrawOut = b := rfl
@[simp] theorem State.setRedrawOut_moves (b : Bool) : (s.setRedrawOut b).moves = s.moves := rfl
@[simp] theorem State.setRedrawOut_ticks (b : Bool) : (s.setRedrawOut b).ticks = s.ticks := rfl
@[simp] theorem State.setRedrawOut_rndIn (b : Bool) : (s.setRedrawOut b).rndIn = s.rndIn := rfl
@[simp] theorem State.setRedrawOut_draws (b : Bool) : (s.setRedrawOut b).draws = s.draws := rfl

@[simp] theorem State.setMoves_mem (q : List HostMove) (n : Nat) : (s.setMoves q n).mem = s.mem := rfl
@[simp] theorem State.setMoves_v (q : List HostMove) (n : Nat) : (s.setMoves q n).v = s.v := rfl
@[simp] theorem State.setMoves_i (q : List HostMove) (n : Nat) : (s.setMoves q n).i = s.i := rfl
@[simp] theorem State.setMoves_pc (q : List HostMove) (n : Nat) : (s.setMoves q n).pc = s.pc := rfl
@[simp] theorem State.setMoves_stack (q : List HostMove) (n : Nat) : (s.setMoves q n).stack = s.stack := rfl
@[simp] theorem State.setMoves_sp (q : List HostMove) (n : Nat) : (s.setMoves q n).sp = s.sp := rfl
@[simp] theorem State.setMoves_dt (q : List HostMove) (n : Nat) : (s.setMoves q n).dt = s.dt := rfl
@[simp] theorem State.setMoves_st (q : List HostMove) (n : Nat) : (s.setMoves q n).st = s.st := rfl
@[simp] theorem State.setMoves_keys (q : List HostMove) (n : Nat) : (s.setMoves q n).keys = s.keys := rfl
@[simp] theorem State.setMoves_display (q : List HostMove) (n : Nat) : (s.setMoves q n).display = s.display := rfl
@[simp] theorem State.setMoves_runState (q : List HostMove) (n : Nat) : (s.setMoves q n).runState = s.runState := rfl
@[simp] theorem State.setMoves_redraw (q : List HostMove) (n : Nat) : (s.setMoves q n).redraw = s.redraw := rfl
@[simp] theorem State.setMoves_fault (q : List HostMove) (n : Nat) : (s.setMoves q n).fault = s.fault := rfl
@[simp] theorem State.setMoves_phase (q : List HostMove) (n : Nat) : (s.setMoves q n).phase = s.phase := rfl
@[simp] theorem State.setMoves_redrawOut (q : List HostMove) (n : Nat) : (s.setMoves q n).redrawOut = s.redrawOut := rfl
@[simp] theorem State.setMoves_moves (q : List HostMove) (n : Nat) : (s.setMoves q n).moves = q := rfl
@[simp] theorem State.setMoves_ticks (q : List HostMove) (n : Nat) : (s.setMoves q n).ticks = n := rfl
@[simp] theorem State.setMoves_rndIn (q : List HostMove) (n : Nat) : (s.setMoves q n).rndIn = s.rndIn := rfl
@[simp] theorem State.setMoves_draws (q : List HostMove) (n : Nat) : (s.setMoves q n).draws = s.draws := rfl

@[simp] theorem State.setRnd_mem (q : List Byte) (n : Nat) : (s.setRnd q n).mem = s.mem := rfl
@[simp] theorem State.setRnd_v (q : List Byte) (n : Nat) : (s.setRnd q n).v = s.v := rfl
@[simp] theorem State.setRnd_i (q : List Byte) (n : Nat) : (s.setRnd q n).i = s.i := rfl
@[simp] theorem State.setRnd_pc (q : List Byte) (n : Nat) : (s.setRnd q n).pc = s.pc := rfl
@[simp] theorem State.setRnd_stack (q : List Byte) (n : Nat) : (s.setRnd q n).stack = s.stack := rfl
@[simp] theorem State.setRnd_sp (q : List Byte) (n : Nat) : (s.setRnd q n).sp = s.sp := rfl
@[simp] theorem State.setRnd_dt (q : List Byte) (n : Nat) : (s.setRnd q n).dt = s.dt := rfl
@[simp] theorem State.setRnd_st (q : List Byte) (n : Nat) : (s.setRnd q n).st = s.st := rfl
@[simp] theorem State.setRnd_keys (q : List Byte) (n : Nat) : (s.setRnd q n).keys = s.keys := rfl
@[simp] theorem State.setRnd_display (q : List Byte) (n : Nat) : (s.setRnd q n).display = s.display := rfl
@[simp] theorem State.setRnd_runState (q : List Byte) (n : Nat) : (s.setRnd q n).runState = s.runState := rfl
@[simp] theorem State.setRnd_redraw (q : List Byte) (n : Nat) : (s.setRnd q n).redraw = s.redraw := rfl
@[simp] theorem State.setRnd_fault (q : List Byte) (n : Nat) : (s.setRnd q n).fault = s.fault := rfl
@[simp] theorem State.setRnd_phase (q : List Byte) (n : Nat) : (s.setRnd q n).phase = s.phase := rfl
@[simp] theorem State.setRnd_redrawOut (q : List Byte) (n : Nat) : (s.setRnd q n).redrawOut = s.redrawOut := rfl
@[simp] theorem State.setRnd_moves (q : List Byte) (n : Nat) : (s.setRnd q n).moves = s.moves := rfl
@[simp] theorem State.setRnd_ticks (q : List Byte) (n : Nat) : (s.setRnd q n).ticks = s.ticks := rfl
@[simp] theorem State.setRnd_rndIn (q : List Byte) (n : Nat) : (s.setRnd q n).rndIn = q := rfl
@[simp] theorem State.setRnd_draws (q : List Byte) (n : Nat) : (s.setRnd q n).draws = n := rfl

@[simp] theorem State.setReg_mem (r : Reg) (b : Byte) : (s.setReg r b).mem = s.mem := rfl
@[simp] theorem State.setReg_v (r : Reg) (b : Byte) : (s.setReg r b).v = s.v.set r.val b r.isLt := rfl
@[simp] theorem State.setReg_i (r : Reg) (b : Byte) : (s.setReg r b).i = s.i := rfl
@[simp] theorem State.setReg_pc (r : Reg) (b : Byte) : (s.setReg r b).pc = s.pc := rfl
@[simp] theorem State.setReg_stack (r : Reg) (b : Byte) : (s.setReg r b).stack = s.stack := rfl
@[simp] theorem State.setReg_sp (r : Reg) (b : Byte) : (s.setReg r b).sp = s.sp := rfl
@[simp] theorem State.setReg_dt (r : Reg) (b : Byte) : (s.setReg r b).dt = s.dt := rfl
@[simp] theorem State.setReg_st (r : Reg) (b : Byte) : (s.setReg r b).st = s.st := rfl
@[simp] theorem State.setReg_keys (r : Reg) (b : Byte) : (s.setReg r b).keys = s.keys := rfl
@[simp] theorem State.setReg_display (r : Reg) (b : Byte) : (s.setReg r b).display = s.display := rfl
@[simp] theorem State.setReg_runState (r : Reg) (b : Byte) : (s.setReg r b).runState = s.runState := rfl
@[simp] theorem State.setReg_redraw (r : Reg) (b : Byte) : (s.setReg r b).redraw = s.redraw := rfl
@[simp] theorem State.setReg_fault (r : Reg) (b : Byte) : (s.setReg r b).fault = s.fault := rfl
@[simp] theorem State.setReg_phase (r : Reg) (b : Byte) : (s.setReg r b).phase = s.phase := rfl
@[simp] theorem State.setReg_redrawOut (r : Reg) (b : Byte) : (s.setReg r b).redrawOut = s.redrawOut := rfl
@[simp] theorem State.setReg_moves (r : Reg) (b : Byte) : (s.setReg r b).moves = s.moves := rfl
@[simp] theorem State.setReg_ticks (r : Reg) (b : Byte) : (s.setReg r b).ticks = s.ticks := rfl
@[simp] theorem State.setReg_rndIn (r : Reg) (b : Byte) : (s.setReg r b).rndIn = s.rndIn := rfl
@[simp] theorem State.setReg_draws (r : Reg) (b : Byte) : (s.setReg r b).draws = s.draws := rfl

@[simp] theorem State.advance_mem : (s.advance).mem = s.mem := rfl
@[simp] theorem State.advance_v : (s.advance).v = s.v := rfl
@[simp] theorem State.advance_i : (s.advance).i = s.i := rfl
@[simp] theorem State.advance_pc : (s.advance).pc = s.pc + 2 := rfl
@[simp] theorem State.advance_stack : (s.advance).stack = s.stack := rfl
@[simp] theorem State.advance_sp : (s.advance).sp = s.sp := rfl
@[simp] theorem State.advance_dt : (s.advance).dt = s.dt := rfl
@[simp] theorem State.advance_st : (s.advance).st = s.st := rfl
@[simp] theorem State.advance_keys : (s.advance).keys = s.keys := rfl
@[simp] theorem State.advance_display : (s.advance).display = s.display := rfl
@[simp] theorem State.advance_runState : (s.advance).runState = s.runState := rfl
@[simp] theorem State.advance_redraw : (s.advance).redraw = s.redraw := rfl
@[simp] theorem State.advance_fault : (s.advance).fault = s.fault := rfl
@[simp] theorem State.advance_phase : (s.advance).phase = s.phase := rfl
@[simp] theorem State.advance_redrawOut : (s.advance).redrawOut = s.redrawOut := rfl
@[simp] theorem State.advance_moves : (s.advance).moves = s.moves := rfl
@[simp] theorem State.advance_ticks : (s.advance).ticks = s.ticks := rfl
@[simp] theorem State.advance_rndIn : (s.advance).rndIn = s.rndIn := rfl
@[simp] theorem State.advance_draws : (s.advance).draws = s.draws := rfl

@[simp] theorem State.rewind_mem : (s.rewind).mem = s.mem := rfl
@[simp] theorem State.rewind_v : (s.rewind).v = s.v := rfl
@[simp] theorem State.rewind_i : (s.rewind).i = s.i := rfl
@[simp] theorem State.rewind_pc : (s.rewind).pc = s.pc - 2 := rfl
@[simp] theorem State.rewind_stack : (s.rewind).stack = s.stack := rfl
@[simp] theorem State.rewind_sp : (s.rewind).sp = s.sp := rfl
@[simp] theorem State.rewind_dt : (s.rewind).dt = s.dt := rfl
@[simp] theorem State.rewind_st : (s.rewind).st = s.st := rfl
@[simp] theorem State.rewind_keys : (s.rewind).keys = s.keys := rfl
@[simp] theorem State.rewind_display : (s.rewind).display = s.display := rfl
@[simp] theorem State.rewind_runState : (s.rewind).runState = s.runState := rfl
@[simp] theorem State.rewind_redraw : (s.rewind).redraw = s.redraw := rfl
@[simp] theorem State.rewind_fault : (s.rewind).fault = s.fault := rfl
@[simp] theorem State.rewind_phase : (s.rewind).phase = s.phase := rfl
@[simp] theorem State.rewind_redrawOut : (s.rewind).redrawOut = s.redrawOut := rfl
@[simp] theorem State.rewind_moves : (s.rewind).moves = s.moves := rfl
@[simp] theorem State.rewind_ticks : (s.rewind).ticks = s.ticks := rfl
@[simp] theorem State.rewind_rndIn : (s.rewind).rndIn = s.rndIn := rfl
@[simp] theorem State.rewind_draws : (s.rewind).draws = s.draws := rfl

@[simp] theorem State.afterRnd_mem : (s.afterRnd).mem = s.mem := rfl
@[simp] theorem State.afterRnd_v : (s.afterRnd).v = s.v := rfl
@[simp] theorem State.afterRnd_i : (s.afterRnd).i = s.i := rfl
@[simp] theorem State.afterRnd_pc : (s.afterRnd).pc = s.pc := rfl
@[simp] theorem State.afterRnd_stack : (s.afterRnd).stack = s.stack := rfl
@[simp] theorem State.afterRnd_sp : (s.afterRnd).sp = s.sp := rfl
@[simp] theorem State.afterRnd_dt : (s.afterRnd).dt = s.dt := rfl
@[simp] theorem State.afterRnd_st : (s.afterRnd).st = s.st := rfl
@[simp] theorem State.afterRnd_keys : (s.afterRnd).keys = s.keys := rfl
@[simp] theorem State.afterRnd_display : (s.afterRnd).display = s.display := rfl
@[simp] theorem State.afterRnd_runState : (s.afterRnd).runState = s.runState := rfl
@[simp] theorem State.afterRnd_redraw : (s.afterRnd).redraw = s.redraw := rfl
@[simp] theorem State.afterRnd_fault : (s.afterRnd).fault = s.fault := rfl
@[simp] theorem State.afterRnd_phase : (s.afterRnd).phase = s.phase := rfl
@[simp] theorem State.afterRnd_redrawOut : (s.afterRnd).redrawOut = s.redrawOut := rfl
@[simp] theorem State.afterRnd_moves : (s.afterRnd).moves = s.moves := rfl
@[simp] theorem State.afterRnd_ticks : (s.afterRnd).ticks = s.ticks := rfl
@[simp] theorem State.afterRnd_rndIn : (s.afterRnd).rndIn = s.rndIn.tail := rfl
@[simp] theorem State.afterRnd_draws : (s.afterRnd).draws = s.draws + 1 := rfl

@[simp] theorem State.afterMove_mem : (s.afterMove).mem = s.mem := rfl
@[simp] theorem State.afterMove_v : (s.afterMove).v = s.v := rfl
@[simp] theorem State.afterMove_i : (s.afterMove).i = s.i := rfl
@[simp] theorem State.afterMove_pc : (s.afterMove).pc = s.pc := rfl
@[simp] theorem State.afterMove_stack : (s.afterMove).stack = s.stack := rfl
@[simp] theorem State.afterMove_sp : (s.afterMove).sp = s.sp := rfl
@[simp] theorem State.afterMove_dt : (s.afterMove).dt = s.dt := rfl
@[simp] theorem State.afterMove_st : (s.afterMove).st = s.st := rfl
@[simp] theorem State.afterMove_keys : (s.afterMove).keys = s.keys := rfl
@[simp] theorem State.afterMove_display : (s.afterMove).display = s.display := rfl
@[simp] theorem State.afterMove_runState : (s.afterMove).runState = s.runState := rfl
@[simp] theorem State.afterMove_redraw : (s.afterMove).redraw = s.redraw := rfl
@[simp] theorem State.afterMove_fault : (s.afterMove).fault = s.fault := rfl
@[simp] theorem State.afterMove_phase : (s.afterMove).phase = s.phase := rfl
@[simp] theorem State.afterMove_redrawOut : (s.afterMove).redrawOut = s.redrawOut := rfl
@[simp] theorem State.afterMove_moves : (s.afterMove).moves = s.moves.tail := rfl
@[simp] theorem State.afterMove_ticks : (s.afterMove).ticks = s.ticks + 1 := rfl
@[simp] theorem State.afterMove_rndIn : (s.afterMove).rndIn = s.rndIn := rfl
@[simp] theorem State.afterMove_draws : (s.afterMove).draws = s.draws := rfl

end Sys2Proof.Machine
end

