-- ==== Sys2Proof/Laws/Registers.lean ====
section
/-! SUPPORT. Registers, flags and FX65's loads: what each shared operation leaves in every register. -/

namespace Sys2Proof.Machine

theorem get_set (v : Vector Byte 16) (r q : Reg) (b : Byte) : (v.set r.val b r.isLt).get q = if q = r then b else v.get q := by
  have hg : ∀ w : Vector Byte 16, w.get q = w[q.val] := fun _ => rfl
  rw [hg, hg, Vector.getElem_set]
  by_cases h : q = r
  · rw [if_pos (by rw [h]), if_pos h]
  · rw [if_neg (fun e => h (Fin.ext e.symm)), if_neg h]

/-- A register write reads back, and leaves every other register. -/
theorem State.reg_setReg (s : State) (r q : Reg) (b : Byte) : (s.setReg r b).reg q = if q = r then b else s.reg q :=
  get_set s.v r q b

@[simp] theorem State.reg_setReg_self (s : State) (r : Reg) (b : Byte) : (s.setReg r b).reg r = b := by
  rw [State.reg_setReg, if_pos rfl]

@[simp] theorem State.reg_advance (s : State) (r : Reg) : s.advance.reg r = s.reg r := rfl
@[simp] theorem State.reg_setPc (s : State) (w : Word) (r : Reg) : (s.setPc w).reg r = s.reg r := rfl
@[simp] theorem State.reg_setDisplay (s : State) (d : Display) (r : Reg) : (s.setDisplay d).reg r = s.reg r := rfl
@[simp] theorem State.reg_setRedraw (s : State) (b : Bool) (r : Reg) : (s.setRedraw b).reg r = s.reg r := rfl
@[simp] theorem State.reg_afterRnd (s : State) (r : Reg) : s.afterRnd.reg r = s.reg r := rfl

/-- Flag first, then the result on the registers re-read (R119): what every register holds after. -/
theorem flagThenResult_reg (flag result : State → Byte) (x q : Reg) (s : State) :
    (flagThenResult flag x result s).reg q =
      if q = x then result (s.setReg Reg.F (flag s)) else if q = Reg.F then flag s else s.reg q := by
  unfold flagThenResult
  rw [State.reg_setReg, State.reg_setReg]

/-- Flag and result change registers only. -/
theorem flagThenResult_frame (flag result : State → Byte) (x : Reg) (s : State) :
    flagThenResult flag x result s = { s with v := (flagThenResult flag x result s).v } := rfl

/-- FX65's loads: a register of the list holds its byte of memory, every other register is as before. -/
theorem loadRegs_get (rs : List Reg) (m : Memory) (a : Nat) (v : Vector Byte 16) (q : Reg) :
    (loadRegs m a rs v).get q = if q ∈ rs then m.read (a + q.val) else v.get q := by
  induction rs generalizing v with
  | nil => simp [loadRegs]
  | cons r rs ih =>
    unfold loadRegs
    rw [ih, get_set]
    by_cases hq : q ∈ rs
    · simp [hq]
    · by_cases hr : q = r
      · subst hr; simp
      · simp [hq, hr]

/-- The lowest key down: down itself, with every lower key up. -/
theorem lowestKey_some (keys : Vector Bool 16) (k : Fin 16) :
    lowestKey keys = some k ↔ keys.get k = true ∧ ∀ j < k, keys.get j = false := by
  have h : ∀ p : Fin 16 → Bool, allRegs.find? p = some k ↔ p k = true ∧ ∀ j < k, p j = false := by
    intro p
    have hs : allRegs.Pairwise (· < ·) := by decide
    have hm : ∀ j : Fin 16, j ∈ allRegs := by decide
    constructor
    · intro he
      refine ⟨List.find?_some he, fun j hj => ?_⟩
      obtain ⟨_, as, bs, hab, hno⟩ := List.find?_eq_some_iff_append.mp he
      have hjm := hm j
      rw [hab, List.mem_append, List.mem_cons] at hjm
      rw [hab, List.pairwise_append, List.pairwise_cons] at hs
      rcases hjm with hj1 | hj1 | hj1
      · simpa using hno j hj1
      · exact absurd hj1 (ne_of_lt hj)
      · exact absurd (hs.2.1.1 j hj1) (not_lt.mpr (le_of_lt hj))
    · rintro ⟨hk, hlow⟩
      cases he : allRegs.find? p with
      | none => exact absurd hk (by simpa using (List.find?_eq_none.mp he) k (hm k))
      | some j =>
        have hj := List.find?_some he
        obtain ⟨_, as, bs, hab, hno⟩ := List.find?_eq_some_iff_append.mp he
        have hkm := hm k
        rw [hab, List.mem_append, List.mem_cons] at hkm
        rw [hab, List.pairwise_append, List.pairwise_cons] at hs
        rcases hkm with h1 | h1 | h1
        · exact absurd hk (by simpa using hno k h1)
        · rw [h1]
        · exact absurd hj (by simp [hlow j (hs.2.1.1 k h1)])
  exact h (keys.get ·)

/-- No key down. -/
theorem lowestKey_none (keys : Vector Bool 16) : lowestKey keys = none ↔ ∀ k, keys.get k = false := by
  have hm : ∀ j : Fin 16, j ∈ allRegs := by decide
  simp only [lowestKey, List.find?_eq_none]
  exact ⟨fun h k => by simpa using h k (hm k), fun h k _ => by simp [h k]⟩

end Sys2Proof.Machine
end

