-- ==== Sys2Proof/Laws/Display.lean ====
section
/-! SUPPORT. What drawing does, cell by cell: one column, one row, a whole sprite. -/

namespace Sys2Proof.Machine

theorem Display.cell_clear (x y : Nat) : Display.cell Display.clear x y = false := by
  unfold Display.cell
  split
  · simp [Display.clear, Vector.get]
  · rfl

theorem Display.cell_setCell (d : Display) (x y : Nat) (b : Bool) (hx : x < 64) (hy : y < 32) (cx cy : Nat) :
    Display.cell (Display.setCell d x y b) cx cy = if cx = x ∧ cy = y then b else Display.cell d cx cy := by
  have hg : ∀ {α : Type} {n : Nat} (w : Vector α n) (q : Fin n), w.get q = w[q.val] := fun _ _ => rfl
  unfold Display.setCell
  rw [dif_pos ⟨hx, hy⟩]
  by_cases hc : cx < 64 ∧ cy < 32
  · simp only [Display.cell, dif_pos hc, hg]
    by_cases hyy : y = cy
    · subst hyy
      by_cases hxx : x = cx
      · subst hxx; simp
      · simp [hxx, Ne.symm hxx]
    · simp [hyy, Ne.symm hyy]
  · have h1 : ¬ (cx = x ∧ cy = y) := by omega
    simp only [Display.cell, dif_neg hc, if_neg h1]

theorem keep_of_not (old b : Bool) {p : Prop} [Decidable p] (h : ¬ p) : (old != (decide p && b)) = old := by
  rw [decide_eq_false h]; cases old <;> rfl

theorem flip_of (old b : Bool) {p : Prop} [Decidable p] (h : p) : (old != (decide p && b)) = (old != b) := by
  rw [decide_eq_true h, Bool.true_and]

theorem flip_congr (old b : Bool) {p q : Prop} [Decidable p] [Decidable q] (h : p ↔ q) :
    (old != (decide p && b)) = (old != (decide q && b)) := by
  rw [decide_eq_decide.mpr h]

/-- The columns `c` .. `c + count - 1` of one row: exactly the cells on the screen under a 1 bit are inverted, and a collision is
noted exactly when one of them was on. -/
theorem drawColumns_spec (sprite : Byte) (x0 y : Nat) (hy : y < 32) (count c : Nat) (d : Drawing) (cx cy : Nat)
    (hcx : cx < 64) :
    Display.cell (drawColumns sprite x0 y count c d).grid cx cy =
      (Display.cell d.grid cx cy != (decide (cy = y ∧ x0 + c ≤ cx ∧ cx < x0 + c + count) && spriteBit sprite (cx - x0))) := by
  induction count generalizing c d with
  | zero =>
    exact (keep_of_not _ _ (by omega)).symm
  | succ count ih =>
    unfold drawColumns
    split
    · rename_i hw
      simp only [Config.dispW] at hw
      exact (keep_of_not _ _ (by omega)).symm
    · rename_i hw
      simp only [Config.dispW, not_le] at hw
      rw [ih]
      simp only [drawPixel]
      rw [Display.cell_setCell _ _ _ _ hw hy]
      by_cases hcc : cx = x0 + c ∧ cy = y
      · rw [if_pos hcc, keep_of_not _ _ (by omega), flip_of _ _ (by omega), hcc.1, hcc.2, Nat.add_sub_cancel_left]
      · rw [if_neg hcc]
        exact flip_congr _ _ (by omega)

theorem drawColumns_collided (sprite : Byte) (x0 y : Nat) (hy : y < 32) (count c : Nat) (d : Drawing) :
    (drawColumns sprite x0 y count c d).collided = true ↔
      d.collided = true ∨ ∃ cx, cx < 64 ∧ x0 + c ≤ cx ∧ cx < x0 + c + count ∧ spriteBit sprite (cx - x0) = true ∧
        Display.cell d.grid cx y = true := by
  induction count generalizing c d with
  | zero =>
    simp only [drawColumns]
    constructor
    · exact .inl
    · rintro (h | ⟨cx, _, h1, h2, _⟩)
      · exact h
      · omega
  | succ count ih =>
    unfold drawColumns
    split
    · rename_i hw
      simp only [Config.dispW] at hw
      constructor
      · exact .inl
      · rintro (h | ⟨cx, h0, h1, _⟩)
        · exact h
        · omega
    · rename_i hw
      simp only [Config.dispW, not_le] at hw
      rw [ih]
      simp only [drawPixel, Bool.or_eq_true, Bool.and_eq_true]
      have hcell : ∀ cx, x0 + (c + 1) ≤ cx →
          Display.cell (Display.setCell d.grid (x0 + c) y (Display.cell d.grid (x0 + c) y != spriteBit sprite c)) cx y =
            Display.cell d.grid cx y := by
        intro cx hcx
        rw [Display.cell_setCell _ _ _ _ hw hy, if_neg (by omega)]
      constructor
      · rintro ((h | ⟨hb, ho⟩) | ⟨cx, h0, h1, h2, h3, h4⟩)
        · exact .inl h
        · exact .inr ⟨x0 + c, hw, le_refl _, by omega, by rwa [Nat.add_sub_cancel_left], ho⟩
        · exact .inr ⟨cx, h0, by omega, by omega, h3, by rwa [hcell cx h1] at h4⟩
      · rintro (h | ⟨cx, h0, h1, h2, h3, h4⟩)
        · exact .inl (.inl h)
        · by_cases hcc : cx = x0 + c
          · subst hcc
            rw [Nat.add_sub_cancel_left] at h3
            exact .inl (.inr ⟨h3, h4⟩)
          · exact .inr ⟨cx, h0, by omega, by omega, h3, by rw [hcell cx (by omega)]; exact h4⟩

/-- The rows `r` .. `r + count - 1` of a sprite, all on the screen: the cells under a 1 bit are inverted, the others are as
before. -/
theorem drawRows_spec (m : Memory) (a x0 y0 count r : Nat) (hr : y0 + r + count ≤ 32) (d : Drawing) (cx cy : Nat)
    (hcx : cx < 64) :
    Display.cell (drawRows m a x0 y0 count r d).grid cx cy =
      (Display.cell d.grid cx cy !=
        (decide (y0 + r ≤ cy ∧ cy < y0 + r + count ∧ x0 ≤ cx ∧ cx < x0 + 8) &&
          spriteBit (m.read (a + (cy - y0))) (cx - x0))) := by
  induction count generalizing r d with
  | zero =>
    exact (keep_of_not _ _ (by omega)).symm
  | succ count ih =>
    unfold drawRows
    rw [ih (r + 1) (by omega), drawColumns_spec _ _ _ (by omega) _ _ _ _ _ hcx]
    by_cases hrow : cy = y0 + r
    · rw [keep_of_not _ _ (by omega), show a + (cy - y0) = a + r by omega]
      exact flip_congr _ _ (by omega)
    · rw [keep_of_not (Display.cell d.grid cx cy) _ (by omega)]
      exact flip_congr _ _ (by omega)

/-- A collision in the rows of a sprite: a 1 bit on a cell of the screen that was on before the sprite was drawn. -/
theorem drawRows_collided (m : Memory) (a x0 y0 count r : Nat) (hr : y0 + r + count ≤ 32) (d : Drawing) :
    (drawRows m a x0 y0 count r d).collided = true ↔
      d.collided = true ∨ ∃ cx cy, cx < 64 ∧ x0 ≤ cx ∧ cx < x0 + 8 ∧ y0 + r ≤ cy ∧ cy < y0 + r + count ∧
        spriteBit (m.read (a + (cy - y0))) (cx - x0) = true ∧ Display.cell d.grid cx cy = true := by
  induction count generalizing r d with
  | zero =>
    simp only [drawRows]
    constructor
    · exact .inl
    · rintro (h | ⟨cx, cy, _, _, _, h1, h2, _⟩)
      · exact h
      · omega
  | succ count ih =>
    unfold drawRows
    rw [ih (r + 1) (by omega), drawColumns_collided _ _ _ (by omega)]
    have hcell : ∀ cx cy, cx < 64 → y0 + (r + 1) ≤ cy →
        Display.cell (drawColumns (m.read (a + r)) x0 (y0 + r) 8 0 d).grid cx cy = Display.cell d.grid cx cy := by
      intro cx cy h1 h2
      rw [drawColumns_spec _ _ _ (by omega) _ _ _ _ _ h1]
      exact keep_of_not _ _ (by omega)
    constructor
    · rintro ((h | ⟨cx, h0, h1, h2, h3, h4⟩) | ⟨cx, cy, h0, h1, h2, h3, h4, h5, h6⟩)
      · exact .inl h
      · exact .inr ⟨cx, y0 + r, h0, by omega, by omega, le_refl _, by omega, by rwa [Nat.add_sub_cancel_left], h4⟩
      · exact .inr ⟨cx, cy, h0, h1, h2, by omega, by omega, h5, by rwa [hcell cx cy h0 h3] at h6⟩
    · rintro (h | ⟨cx, cy, h0, h1, h2, h3, h4, h5, h6⟩)
      · exact .inl (.inl h)
      · by_cases hrow : cy = y0 + r
        · subst hrow
          rw [Nat.add_sub_cancel_left] at h5
          exact .inl (.inr ⟨cx, h0, by omega, by omega, h5, h6⟩)
        · exact .inr ⟨cx, cy, h0, h1, h2, by omega, by omega, h5, by rw [hcell cx cy h0 (by omega)]; exact h6⟩

/-- Two framebuffers with the same cells are the same. -/
theorem Display.ext_cell (d e : Display) (h : ∀ cx cy, cx < 64 → cy < 32 → Display.cell d cx cy = Display.cell e cx cy) : d = e := by
  apply Vector.ext
  intro y hy
  apply Vector.ext
  intro x hx
  have hc := h x y hx hy
  simp only [Display.cell, dif_pos (And.intro hx hy)] at hc
  exact hc

end Sys2Proof.Machine
end

