-- ==== Sys2Proof/Laws/Ops.lean ====
section
/-! SUPPORT. The shared endings of an instruction, the stack and fetch: everything each can do, once. -/

namespace Sys2Proof.Machine

theorem takeFault_eq (c : FaultCode) (s : State) : takeFault c s = .next { s with fault := some c } := rfl

theorem complete_eq (f : State → State) (s : State) : complete f s = .next (f { s with pc := s.pc + 2 }) := rfl

theorem outOfRange_iff (a : Nat) : outOfRange a = true ↔ 4095 < a := by simp [outOfRange]

/-- An instruction that may be forbidden: its effect on the advanced state, or fault entry on the state before. -/
theorem completeOr_cases (c : FaultCode) (f : State → Option State) (s t : State) (h : completeOr c f s = .next t) :
    f s.advance = some t ∨ (f s.advance = none ∧ t = { s with fault := some c }) := by
  unfold completeOr at h
  split at h
  · rename_i u hu
    exact .inl (by rw [hu]; cases h; rfl)
  · rename_i hu
    exact .inr ⟨hu, by cases h; rfl⟩

/-- A memory instruction: in range it completes, out of range it latches the fault and changes nothing else. -/
theorem completeInRange_cases (a : Nat) (f : State → State) (s t : State) (h : completeInRange a f s = .next t) :
    (a ≤ 4095 ∧ t = f s.advance) ∨ (4095 < a ∧ t = { s with fault := some .dataOutOfRange }) := by
  unfold completeInRange at h
  split at h
  · rename_i ha
    exact .inr ⟨(outOfRange_iff a).mp ha, by cases h; rfl⟩
  · rename_i ha
    refine .inl ⟨?_, by cases h; rfl⟩
    rw [outOfRange_iff] at ha
    omega

theorem completeInRange_of_le (a : Nat) (f : State → State) (s : State) (h : a ≤ 4095) :
    completeInRange a f s = .next (f s.advance) := by
  have ha : outOfRange a = false := by simp [outOfRange, h]
  simp [completeInRange, ha, complete]

theorem completeInRange_of_lt (a : Nat) (f : State → State) (s : State) (h : 4095 < a) :
    completeInRange a f s = .next { s with fault := some .dataOutOfRange } := by
  have ha : outOfRange a = true := by simp [outOfRange, h]
  simp [completeInRange, ha, takeFault, State.setFault]

/-- A conditional skip moves PC by four or by two and does nothing else. -/
theorem skipIf_eq (c : Bool) (s : State) : skipIf c s = .next { s with pc := s.pc + (if c then 4 else 2) } := by
  cases c
  · rfl
  · exact congrArg (fun w => Host.Outcome.next { s with pc := w }) (BitVec.add_assoc s.pc 2 2)

/-- A push below twelve entries: the entry stored, one more live, every other entry as before. -/
theorem State.push_of_lt (s : State) (w : Word) (h : s.sp.val < 12) :
    s.push w = some { s with stack := s.stack.set s.sp.val w h, sp := ⟨s.sp.val + 1, by omega⟩ } := by
  simp [State.push, h, State.setStack]

theorem State.push_full (s : State) (w : Word) (h : s.sp.val = 12) : s.push w = none := by
  simp [State.push, h]

theorem State.popPc_empty (s : State) (h : s.sp.val = 0) : s.popPc = none := by
  simp [State.popPc, h]

/-- A pop with an entry on the stack: one entry less, PC the entry, the stack's contents as before. -/
theorem State.popPc_of_pos (s : State) (h : 0 < s.sp.val) :
    s.popPc = some { s with sp := ⟨s.sp.val - 1, by omega⟩, pc := s.stack.get ⟨s.sp.val - 1, by omega⟩ } := by
  simp [State.popPc, h, State.setStack, State.setPc]

theorem fetch_of_le (s : State) (h : s.pc.toNat ≤ 4094) : fetch s = some (wordAt s.mem s.pc.toNat) := by
  have ha : outOfRange (s.pc.toNat + 1) = false := by simp [outOfRange]; omega
  simp [fetch, ha]

theorem fetch_of_lt (s : State) (h : 4094 < s.pc.toNat) : fetch s = none := by
  have ha : outOfRange (s.pc.toNat + 1) = true := by simp [outOfRange]; omega
  simp [fetch, ha]

/-- The high byte of a word is the one at the lower address. -/
theorem wordAt_toNat (m : Memory) (a : Nat) : (wordAt m a).toNat = (m.read a).toNat * 256 + (m.read (a + 1)).toNat := by
  unfold wordAt wordOfBytes
  rw [BitVec.toNat_append, ← Nat.shiftLeft_add_eq_or_of_lt (m.read (a + 1)).isLt, Nat.shiftLeft_eq]

theorem wordOfBytes_split (w : Word) : wordOfBytes (hiByte w) (loByte w) = w := by
  unfold wordOfBytes hiByte loByte
  ext i hi
  simp only [BitVec.getElem_append, BitVec.getElem_extractLsb']
  split
  · rw [Nat.zero_add]; rfl
  · rw [show 8 + (i - 8) = i by omega]; rfl

end Sys2Proof.Machine
end

