-- ==== Sys2Proof/Laws/Exec.lean ====
section
/-! SUPPORT. The instructions that branch on the state, each as one equation between `exec` and a next state; every other arm of
`exec` is its next state by `rfl`. -/

namespace Sys2Proof.Machine

theorem addrOf_toNat (nnn : Addr12) : (addrOf nnn).toNat = nnn.toNat := by
  unfold addrOf
  rw [BitVec.toNat_setWidth]
  exact Nat.mod_eq_of_lt (by have := nnn.isLt; omega)

theorem zext_toNat (b : Byte) : (zext b).toNat = b.toNat := by
  unfold zext
  rw [BitVec.toNat_setWidth]
  exact Nat.mod_eq_of_lt (by have := b.isLt; omega)

theorem exec_ret (s : State) :
    exec .ret s =
      if h : 0 < s.sp.val then
        .next { s with sp := ⟨s.sp.val - 1, by omega⟩, pc := s.stack.get ⟨s.sp.val - 1, by omega⟩ }
      else .next { s with fault := some .stackUnderflow } := by
  by_cases h : 0 < s.sp.val
  · rw [dif_pos h]
    show completeOr .stackUnderflow State.popPc s = _
    unfold completeOr
    rw [State.popPc_of_pos s.advance h]
    rfl
  · rw [dif_neg h]
    show completeOr .stackUnderflow State.popPc s = _
    unfold completeOr
    rw [State.popPc_empty s.advance (Nat.eq_zero_of_not_pos h)]
    rfl

theorem exec_call (nnn : Addr12) (s : State) :
    exec (.call nnn) s =
      if h : s.sp.val < 12 then
        .next { s with stack := s.stack.set s.sp.val (s.pc + 2) h, sp := ⟨s.sp.val + 1, by omega⟩, pc := addrOf nnn }
      else .next { s with fault := some .stackOverflow } := by
  by_cases h : s.sp.val < 12
  · rw [dif_pos h]
    show completeOr .stackOverflow (pushAndJump nnn) s = _
    unfold completeOr pushAndJump
    rw [State.push_of_lt s.advance s.advance.pc h]
    rfl
  · rw [dif_neg h]
    show completeOr .stackOverflow (pushAndJump nnn) s = _
    unfold completeOr pushAndJump
    rw [State.push_full s.advance s.advance.pc (by have := s.sp.isLt; show s.sp.val = 12; omega)]
    rfl

theorem completeInRange_eq (a : Nat) (f : State → State) (s : State) :
    completeInRange a f s = if 4095 < a then .next { s with fault := some .dataOutOfRange } else .next (f s.advance) := by
  by_cases h : 4095 < a
  · rw [if_pos h, completeInRange_of_lt a f s h]
  · rw [if_neg h, completeInRange_of_le a f s (by omega)]

theorem exec_bcd (x : Reg) (s : State) :
    exec (.bcd x) s =
      if 4095 < effAddr s 2 then .next { s with fault := some .dataOutOfRange }
      else .next { s with mem := s.mem.writeBytes (effAddr s 0) (bcdDigits (s.reg x)), pc := s.pc + 2 } :=
  completeInRange_eq _ _ s

theorem exec_store (x : Reg) (s : State) :
    exec (.store x) s =
      if 4095 < effAddr s x.val then .next { s with fault := some .dataOutOfRange }
      else .next { s with mem := storeRegs s.v (effAddr s 0) (regsUpTo x) s.mem, pc := s.pc + 2 } :=
  completeInRange_eq _ _ s

theorem exec_load (x : Reg) (s : State) :
    exec (.load x) s =
      if 4095 < effAddr s x.val then .next { s with fault := some .dataOutOfRange }
      else .next { s with v := loadRegs s.mem (effAddr s 0) (regsUpTo x) s.v, pc := s.pc + 2 } :=
  completeInRange_eq _ _ s

theorem exec_drw (x y : Reg) (n : Nibble) (s : State) :
    exec (.drw x y n) s =
      if 0 < visibleRows n (originY (s.reg y)) ∧ 4095 < effAddr s (visibleRows n (originY (s.reg y)) - 1) then
        .next { s with fault := some .dataOutOfRange }
      else .next (drawEffect (originX (s.reg x)) (originY (s.reg y)) (visibleRows n (originY (s.reg y))) s.advance) := by
  show (if visibleRows n (originY (s.reg y)) = 0 then complete (drawEffect _ _ _) s else completeInRange _ (drawEffect _ _ _) s) = _
  generalize visibleRows n (originY (s.reg y)) = rows
  by_cases h0 : rows = 0
  · rw [if_pos h0, if_neg (fun h => absurd h.1 (by rw [h0]; exact lt_irrefl 0))]
    rfl
  · rw [if_neg h0, completeInRange_eq]
    by_cases h : 4095 < effAddr s (rows - 1)
    · rw [if_pos h, if_pos ⟨Nat.pos_of_ne_zero h0, h⟩]
    · rw [if_neg h, if_neg (fun hh => h hh.2)]

theorem rewind_advance (s : State) : s.advance.rewind = s := by
  show ({ s with pc := s.pc + 2 - 2 } : State) = s
  rw [BitVec.add_sub_cancel]

theorem exec_ldVxK (x : Reg) (s : State) :
    exec (.ldVxK x) s =
      match lowestKey s.keys with
      | some k => .next { s with v := s.v.set x.val (indexByte k) x.isLt, pc := s.pc + 2 }
      | none => .next s := by
  show Host.Outcome.next (keyWait x s.advance) = _
  unfold keyWait
  rw [show s.advance.keys = s.keys from rfl]
  cases lowestKey s.keys with
  | some k => rfl
  | none => exact congrArg Host.Outcome.next (rewind_advance s)

theorem exec_seImm (x : Reg) (nn : Byte) (s : State) :
    exec (.seImm x nn) s = .next { s with pc := s.pc + (if (s.reg x == nn) = true then 4 else 2) } := skipIf_eq _ s
theorem exec_sneImm (x : Reg) (nn : Byte) (s : State) :
    exec (.sneImm x nn) s = .next { s with pc := s.pc + (if (s.reg x != nn) = true then 4 else 2) } := skipIf_eq _ s
theorem exec_seReg (x y : Reg) (n : Nibble) (s : State) :
    exec (.seReg x y n) s = .next { s with pc := s.pc + (if (s.reg x == s.reg y) = true then 4 else 2) } := skipIf_eq _ s
theorem exec_sneReg (x y : Reg) (n : Nibble) (s : State) :
    exec (.sneReg x y n) s = .next { s with pc := s.pc + (if (s.reg x != s.reg y) = true then 4 else 2) } := skipIf_eq _ s
theorem exec_skp (x : Reg) (s : State) :
    exec (.skp x) s = .next { s with pc := s.pc + (if s.key (lowNibble (s.reg x)) = true then 4 else 2) } := skipIf_eq _ s
theorem exec_sknp (x : Reg) (s : State) :
    exec (.sknp x) s = .next { s with pc := s.pc + (if (!s.key (lowNibble (s.reg x))) = true then 4 else 2) } := skipIf_eq _ s

end Sys2Proof.Machine
end

