-- ==== Sys2Proof/Laws/PerInstr.lean ====
section
/-! SUPPORT. Facts about every instruction as syntax, one lemma per constructor of `Instr`. -/

namespace Sys2Proof

theorem encXNN_F000 (op : BitVec 4) (x : Reg) (nn : Byte) : encXNN op x nn &&& 0xF000 = encNNN op 0 := by
  rw [encXNN_eq, and_F000]

theorem encXYN_F000 (op : BitVec 4) (x y : Reg) (n : Nibble) : encXYN op x y n &&& 0xF000 = encNNN op 0 := by
  rw [encXYN_eq, encXNN_F000]

namespace Laws.MatchesRow

/-- The word of an instruction lies under the mask and match of its own row of spec/opcode_table.json (R75, R76). -/
def Statement (i : Instr) : Prop := ∃ r ∈ opcodeTable, r.name = i.mnemonic ∧ encode i &&& r.mask = r.pattern

theorem cls : Statement .cls :=
  ⟨⟨"00E0", 0xFFFF, 0x00E0, 0⟩, by decide, rfl, by decide⟩
theorem ret : Statement .ret :=
  ⟨⟨"00EE", 0xFFFF, 0x00EE, 0⟩, by decide, rfl, by decide⟩
theorem sys (nnn : Addr12) : Statement (.sys nnn) :=
  ⟨⟨"0NNN", 0xF000, 0x0000, 2⟩, by decide, rfl, and_F000 0x0 nnn⟩
theorem jp (nnn : Addr12) : Statement (.jp nnn) :=
  ⟨⟨"1NNN", 0xF000, 0x1000, 1⟩, by decide, rfl, and_F000 0x1 nnn⟩
theorem call (nnn : Addr12) : Statement (.call nnn) :=
  ⟨⟨"2NNN", 0xF000, 0x2000, 1⟩, by decide, rfl, and_F000 0x2 nnn⟩
theorem seImm (x : Reg) (nn : Byte) : Statement (.seImm x nn) :=
  ⟨⟨"3XNN", 0xF000, 0x3000, 1⟩, by decide, rfl, encXNN_F000 0x3 x nn⟩
theorem sneImm (x : Reg) (nn : Byte) : Statement (.sneImm x nn) :=
  ⟨⟨"4XNN", 0xF000, 0x4000, 1⟩, by decide, rfl, encXNN_F000 0x4 x nn⟩
theorem seReg (x : Reg) (y : Reg) (n : Nibble) : Statement (.seReg x y n) :=
  ⟨⟨"5XY0", 0xF000, 0x5000, 1⟩, by decide, rfl, encXYN_F000 0x5 x y n⟩
theorem ldImm (x : Reg) (nn : Byte) : Statement (.ldImm x nn) :=
  ⟨⟨"6XNN", 0xF000, 0x6000, 1⟩, by decide, rfl, encXNN_F000 0x6 x nn⟩
theorem addImm (x : Reg) (nn : Byte) : Statement (.addImm x nn) :=
  ⟨⟨"7XNN", 0xF000, 0x7000, 1⟩, by decide, rfl, encXNN_F000 0x7 x nn⟩
theorem ldReg (x : Reg) (y : Reg) : Statement (.ldReg x y) :=
  ⟨⟨"8XY0", 0xF00F, 0x8000, 1⟩, by decide, rfl, and_F00F 0x8 x y 0⟩
theorem orReg (x : Reg) (y : Reg) : Statement (.orReg x y) :=
  ⟨⟨"8XY1", 0xF00F, 0x8001, 1⟩, by decide, rfl, and_F00F 0x8 x y 1⟩
theorem andReg (x : Reg) (y : Reg) : Statement (.andReg x y) :=
  ⟨⟨"8XY2", 0xF00F, 0x8002, 1⟩, by decide, rfl, and_F00F 0x8 x y 2⟩
theorem xorReg (x : Reg) (y : Reg) : Statement (.xorReg x y) :=
  ⟨⟨"8XY3", 0xF00F, 0x8003, 1⟩, by decide, rfl, and_F00F 0x8 x y 3⟩
theorem addReg (x : Reg) (y : Reg) : Statement (.addReg x y) :=
  ⟨⟨"8XY4", 0xF00F, 0x8004, 1⟩, by decide, rfl, and_F00F 0x8 x y 4⟩
theorem sub (x : Reg) (y : Reg) : Statement (.sub x y) :=
  ⟨⟨"8XY5", 0xF00F, 0x8005, 1⟩, by decide, rfl, and_F00F 0x8 x y 5⟩
theorem shr (x : Reg) (y : Reg) : Statement (.shr x y) :=
  ⟨⟨"8XY6", 0xF00F, 0x8006, 1⟩, by decide, rfl, and_F00F 0x8 x y 6⟩
theorem subn (x : Reg) (y : Reg) : Statement (.subn x y) :=
  ⟨⟨"8XY7", 0xF00F, 0x8007, 1⟩, by decide, rfl, and_F00F 0x8 x y 7⟩
theorem shl (x : Reg) (y : Reg) : Statement (.shl x y) :=
  ⟨⟨"8XYE", 0xF00F, 0x800E, 1⟩, by decide, rfl, and_F00F 0x8 x y 0xE⟩
theorem sneReg (x : Reg) (y : Reg) (n : Nibble) : Statement (.sneReg x y n) :=
  ⟨⟨"9XY0", 0xF000, 0x9000, 1⟩, by decide, rfl, encXYN_F000 0x9 x y n⟩
theorem ldI (nnn : Addr12) : Statement (.ldI nnn) :=
  ⟨⟨"ANNN", 0xF000, 0xA000, 1⟩, by decide, rfl, and_F000 0xA nnn⟩
theorem jpV0 (nnn : Addr12) : Statement (.jpV0 nnn) :=
  ⟨⟨"BNNN", 0xF000, 0xB000, 1⟩, by decide, rfl, and_F000 0xB nnn⟩
theorem rnd (x : Reg) (nn : Byte) : Statement (.rnd x nn) :=
  ⟨⟨"CXNN", 0xF000, 0xC000, 1⟩, by decide, rfl, encXNN_F000 0xC x nn⟩
theorem drw (x : Reg) (y : Reg) (n : Nibble) : Statement (.drw x y n) :=
  ⟨⟨"DXYN", 0xF000, 0xD000, 1⟩, by decide, rfl, encXYN_F000 0xD x y n⟩
theorem skp (x : Reg) : Statement (.skp x) :=
  ⟨⟨"EX9E", 0xF0FF, 0xE09E, 1⟩, by decide, rfl, and_F0FF 0xE x 0x9E⟩
theorem sknp (x : Reg) : Statement (.sknp x) :=
  ⟨⟨"EXA1", 0xF0FF, 0xE0A1, 1⟩, by decide, rfl, and_F0FF 0xE x 0xA1⟩
theorem ldVxDt (x : Reg) : Statement (.ldVxDt x) :=
  ⟨⟨"FX07", 0xF0FF, 0xF007, 1⟩, by decide, rfl, and_F0FF 0xF x 0x07⟩
theorem ldVxK (x : Reg) : Statement (.ldVxK x) :=
  ⟨⟨"FX0A", 0xF0FF, 0xF00A, 1⟩, by decide, rfl, and_F0FF 0xF x 0x0A⟩
theorem ldDtVx (x : Reg) : Statement (.ldDtVx x) :=
  ⟨⟨"FX15", 0xF0FF, 0xF015, 1⟩, by decide, rfl, and_F0FF 0xF x 0x15⟩
theorem ldStVx (x : Reg) : Statement (.ldStVx x) :=
  ⟨⟨"FX18", 0xF0FF, 0xF018, 1⟩, by decide, rfl, and_F0FF 0xF x 0x18⟩
theorem addI (x : Reg) : Statement (.addI x) :=
  ⟨⟨"FX1E", 0xF0FF, 0xF01E, 1⟩, by decide, rfl, and_F0FF 0xF x 0x1E⟩
theorem ldF (x : Reg) : Statement (.ldF x) :=
  ⟨⟨"FX29", 0xF0FF, 0xF029, 1⟩, by decide, rfl, and_F0FF 0xF x 0x29⟩
theorem bcd (x : Reg) : Statement (.bcd x) :=
  ⟨⟨"FX33", 0xF0FF, 0xF033, 1⟩, by decide, rfl, and_F0FF 0xF x 0x33⟩
theorem store (x : Reg) : Statement (.store x) :=
  ⟨⟨"FX55", 0xF0FF, 0xF055, 1⟩, by decide, rfl, and_F0FF 0xF x 0x55⟩
theorem load (x : Reg) : Statement (.load x) :=
  ⟨⟨"FX65", 0xF0FF, 0xF065, 1⟩, by decide, rfl, and_F0FF 0xF x 0x65⟩
theorem res8 (x : Reg) (y : Reg) (n : Nibble) : Statement (.res8 x y n) :=
  ⟨⟨"8XYN-reserved", 0xF000, 0x8000, 2⟩, by decide, rfl, encXYN_F000 0x8 x y n⟩
theorem resE (x : Reg) (nn : Byte) : Statement (.resE x nn) :=
  ⟨⟨"EXNN-reserved", 0xF000, 0xE000, 2⟩, by decide, rfl, encXNN_F000 0xE x nn⟩
theorem resF (x : Reg) (nn : Byte) : Statement (.resF x nn) :=
  ⟨⟨"FXNN-reserved", 0xF000, 0xF000, 2⟩, by decide, rfl, encXNN_F000 0xF x nn⟩

end Laws.MatchesRow
end Sys2Proof
end

