-- ==== Sys2Proof/Laws/Scheduler.lean ====
section
/-! SUPPORT. The pieces of a tick: everything each can do, once. -/

namespace Sys2Proof.Machine

/-- The events change the run state only. -/
theorem applyEvents_frame (mv : HostMove) (s : State) : applyEvents mv s = { s with runState := (applyEvents mv s).runState } := by
  unfold applyEvents
  split <;> (try split) <;> (try split) <;> rfl

/-- The run state after the events (R182). -/
theorem applyEvents_runState (mv : HostMove) (s : State) :
    (applyEvents mv s).runState =
      match s.runState with
      | .halted => .halted
      | .running => if mv.evQuit then .halted else if mv.evPause then .paused else .running
      | .paused => if mv.evQuit then .halted else if mv.evPause then .running else .paused := by
  unfold applyEvents
  cases h : s.runState <;> cases mv.evQuit <;> cases mv.evPause <;> simp [h]

/-- The snapshot changes the keys only, and those only unless Halted (R183). -/
theorem snapshotKeys_eq (mv : HostMove) (s : State) :
    snapshotKeys mv s = { s with keys := if s.runState = .halted then s.keys else mv.keysIn } := by
  unfold snapshotKeys
  split <;> rfl

theorem countDown_toNat (b : Byte) : (countDown b).toNat = b.toNat - 1 := by
  unfold countDown
  split
  · rename_i h; rw [h]; rfl
  · rename_i h
    have : b.toNat ≠ 0 := fun e => h (BitVec.eq_of_toNat_eq e)
    bv_omega

/-- The timers step changes the two timers only, and those only while something may run (R184). -/
theorem decrementTimers_eq (s : State) :
    decrementTimers s = { s with dt := if canRun s = true then countDown s.dt else s.dt,
                                 st := if canRun s = true then countDown s.st else s.st } := by
  unfold decrementTimers
  split <;> rfl

theorem canRun_iff (s : State) : canRun s = true ↔ s.runState = .running ∧ s.fault = none := by
  simp [canRun]

/-- A machine that may not run passes through its batch unchanged (R186). -/
theorem batch_of_not_canRun (n : Nat) (s : State) (h : canRun s = false) : batch n s = .next s := by
  cases n with
  | zero => rfl
  | succ n => unfold batch; rw [h]; rfl

/-- STEP as one equation: the decoded word, or the fetch fault. -/
theorem engineStep_eq (s : State) :
    engineStep s = if 4094 < s.pc.toNat then .next { s with fault := some .fetchOutOfRange }
      else exec (decode (wordAt s.mem s.pc.toNat)) s := by
  unfold engineStep
  by_cases h : 4094 < s.pc.toNat
  · rw [fetch_of_lt s h, if_pos h]; rfl
  · rw [fetch_of_le s (by omega), if_neg h]

end Sys2Proof.Machine
end

