-- ==== Sys2Proof/Tests/Slice0.lean ====
section
/-! SUPPORT. Tests of the model's author: ill-formed terms, hand-encoded words, the single-step vectors of spec/95_test_vectors.md
section 2, and a named witness for the hypotheses of every obligation that has some. -/

namespace Sys2Proof.Tests

open Sys2Proof.Machine

/-! ### Helpers -/

/-- Whether the instruction of a word answers a next state of which `p` holds. -/
def runs (w : Word) (s : State) (p : State → Bool) : Bool :=
  match exec (decode w) s with
  | .next t => p t
  | .fault _ => false
  | .refused _ => false

/-- The state after reset with registers set. -/
def regs (l : List (Reg × Byte)) : State := l.foldl (fun s p => s.setReg p.1 p.2) State.reset

/-- A state with a byte of memory set. -/
def poke (a : Nat) (b : Byte) (s : State) : State := s.setMem (s.mem.write a b)

/-- A state with some keys down. -/
def press (l : List Nat) (s : State) : State := s.setKeys (Vector.ofFn fun k : Fin 16 => l.contains k.val)

/-- The state after reset with so many stack entries, each of the address `0x456`. -/
def stacked (n : Fin 13) : State := State.reset.setStack (Vector.replicate 12 0x456) n

/-- A state with one cell of the display set. -/
def light (x y : Nat) (s : State) : State := s.setDisplay (Display.setCell s.display x y true)

/-! ### WellFormed: each check refuses an ill-formed term -/

theorem test_wf_sys_refuses_cls_word : Instr.wf (.sys 0x0E0) = false := by decide
theorem test_wf_sys_refuses_ret_word : Instr.wf (.sys 0x0EE) = false := by decide
theorem test_wf_res8_refuses_used_codes : ([0, 1, 2, 3, 4, 5, 6, 7, 0xE] : List Nibble).all (fun n => !Instr.wf (.res8 1 2 n)) = true := by
  decide
theorem test_wf_resE_refuses_key_skips : Instr.wf (.resE 3 0x9E) = false ∧ Instr.wf (.resE 3 0xA1) = false := by decide
theorem test_wf_resF_refuses_used_codes :
    ([0x07, 0x0A, 0x15, 0x18, 0x1E, 0x29, 0x33, 0x55, 0x65] : List Byte).all (fun b => !Instr.wf (.resF 3 b)) = true := by decide

/-! ### Decoding: a word written out from spec/30_encoding.md for every constructor -/

theorem test_decode_group0 : decode 0x00E0 = .cls ∧ decode 0x00EE = .ret ∧ decode 0x01E0 = .sys 0x1E0 ∧ decode 0x0000 = .sys 0 := by
  decide
theorem test_decode_flow : decode 0x1ABC = .jp 0xABC ∧ decode 0x2FED = .call 0xFED ∧ decode 0xB123 = .jpV0 0x123 := by decide
theorem test_decode_skips :
    decode 0x3A42 = .seImm 0xA 0x42 ∧ decode 0x4B17 = .sneImm 0xB 0x17 ∧ decode 0x512F = .seReg 1 2 0xF ∧
    decode 0x9340 = .sneReg 3 4 0 := by decide
theorem test_decode_loads : decode 0x6C5D = .ldImm 0xC 0x5D ∧ decode 0x71FF = .addImm 1 0xFF ∧ decode 0xAFED = .ldI 0xFED := by decide
theorem test_decode_alu :
    decode 0x8AB0 = .ldReg 0xA 0xB ∧ decode 0x8121 = .orReg 1 2 ∧ decode 0x8342 = .andReg 3 4 ∧ decode 0x8563 = .xorReg 5 6 ∧
    decode 0x81F4 = .addReg 1 0xF ∧ decode 0x8F15 = .sub 0xF 1 := by decide
theorem test_decode_shifts :
    decode 0x8126 = .shr 1 2 ∧ decode 0x8127 = .subn 1 2 ∧ decode 0x812E = .shl 1 2 ∧ decode 0xC30F = .rnd 3 0x0F := by decide
theorem test_decode_display_keys : decode 0xD123 = .drw 1 2 3 ∧ decode 0xE79E = .skp 7 ∧ decode 0xE8A1 = .sknp 8 := by decide
theorem test_decode_timers :
    decode 0xF107 = .ldVxDt 1 ∧ decode 0xF30A = .ldVxK 3 ∧ decode 0xF415 = .ldDtVx 4 ∧ decode 0xF518 = .ldStVx 5 := by decide
theorem test_decode_memory :
    decode 0xF61E = .addI 6 ∧ decode 0xF729 = .ldF 7 ∧ decode 0xF833 = .bcd 8 ∧ decode 0xF955 = .store 9 ∧
    decode 0xFA65 = .load 0xA := by decide
theorem test_decode_reserved : decode 0x8128 = .res8 1 2 8 ∧ decode 0xE09F = .resE 0 0x9F ∧ decode 0xF275 = .resF 2 0x75 := by decide
theorem test_decodeTableWord : decodeTableWord 16 0x6C5D = some (.ldImm 0xC 0x5D) ∧ decodeTableWord 24 0x6C5D = none := by decide

/-! ### Memory and reset -/

theorem test_memory_write_keeps_form : Memory.wf (poke 0x300 7 (poke 0x2FF 8 State.reset)).mem = true := by decide
theorem test_memory_write_back_removes : poke 0x300 0 (poke 0x300 7 State.reset) = State.reset := by decide
theorem test_font_glyph_1 :
    ([0, 1, 2, 3, 4].map fun k => State.reset.mem.read (5 + k)) = [0x20, 0x60, 0x20, 0x20, 0x70] := by decide

/-! ### Single steps: spec/95_test_vectors.md section 2 -/

theorem test_0123 : runs 0x0123 State.reset (fun t => t == { State.reset with pc := 0x202 }) = true := by decide
theorem test_8128 : runs 0x8128 (regs [(1, 3), (2, 4), (15, 9)]) (fun t => t.reg 1 == 3 && t.reg 15 == 9 && t.pc == 0x202) = true := by
  decide
theorem test_E09F : runs 0xE09F State.reset (fun t => t == { State.reset with pc := 0x202 }) = true := by decide
theorem test_F075 : runs 0xF075 State.reset (fun t => t == { State.reset with pc := 0x202 }) = true := by decide

theorem test_1ABC : runs 0x1ABC State.reset (fun t => t.pc == 0xABC) = true := by decide
theorem test_2300 : runs 0x2300 (State.reset.setPc 0x2F0) (fun t => t.stack.get 0 == 0x2F2 && t.sp == 1 && t.pc == 0x300) = true := by
  decide
theorem test_2300_full : runs 0x2300 (stacked 12) (fun t => t == { stacked 12 with fault := some .stackOverflow }) = true := by decide
theorem test_00EE : runs 0x00EE (stacked 2) (fun t => t.sp == 1 && t.pc == 0x456) = true := by decide
theorem test_00EE_empty : runs 0x00EE (stacked 0) (fun t => t == { stacked 0 with fault := some .stackUnderflow }) = true := by decide
theorem test_BFFF : runs 0xBFFF (regs [(0, 0xFF)]) (fun t => t.pc == 0x10FE) = true := by decide
theorem test_3A42 : runs 0x3A42 (regs [(0xA, 0x42)]) (fun t => t.pc == 0x204) = true := by decide
theorem test_3A42_not : runs 0x3A42 (regs [(0xA, 0x43)]) (fun t => t.pc == 0x202) = true := by decide
theorem test_4A42 : runs 0x4A42 (regs [(0xA, 0x42)]) (fun t => t.pc == 0x202) = true := by decide
theorem test_4A42_skips : runs 0x4A42 (regs [(0xA, 0x43)]) (fun t => t.pc == 0x204) = true := by decide
theorem test_5120 : runs 0x5120 (regs [(1, 7), (2, 8)]) (fun t => t.pc == 0x202) = true := by decide
theorem test_512F_skips : runs 0x512F (regs [(1, 7), (2, 7)]) (fun t => t.pc == 0x204) = true := by decide
theorem test_9120_skips : runs 0x9120 (regs [(1, 7), (2, 8)]) (fun t => t.pc == 0x204) = true := by decide
theorem test_9110 : runs 0x9110 (regs [(1, 7)]) (fun t => t.pc == 0x202) = true := by decide

theorem test_6F80 : runs 0x6F80 State.reset (fun t => t.reg 15 == 0x80) = true := by decide
theorem test_7102 : runs 0x7102 (regs [(1, 0xFF)]) (fun t => t.reg 1 == 1 && t.reg 15 == 0) = true := by decide
theorem test_8120 : runs 0x8120 (regs [(1, 1), (2, 0x3C)]) (fun t => t.reg 1 == 0x3C && t.reg 2 == 0x3C) = true := by decide
theorem test_8121 : runs 0x8121 (regs [(1, 0x0F), (2, 0xF0), (15, 7)]) (fun t => t.reg 1 == 0xFF && t.reg 15 == 7) = true := by decide
theorem test_8122 : runs 0x8122 (regs [(1, 0x3C), (2, 0x0F), (15, 7)]) (fun t => t.reg 1 == 0x0C && t.reg 15 == 7) = true := by decide
theorem test_8123 : runs 0x8123 (regs [(1, 0xFF), (2, 0x0F), (15, 7)]) (fun t => t.reg 1 == 0xF0 && t.reg 15 == 7) = true := by decide
theorem test_8124 : runs 0x8124 (regs [(1, 0x80), (2, 0x80)]) (fun t => t.reg 1 == 0 && t.reg 15 == 1) = true := by decide
theorem test_8F14 : runs 0x8F14 (regs [(15, 0xF0), (1, 0x20)]) (fun t => t.reg 15 == 0x21) = true := by decide
theorem test_8125 : runs 0x8125 (regs [(1, 5), (2, 5)]) (fun t => t.reg 1 == 0 && t.reg 15 == 1) = true := by decide
theorem test_81F5 : runs 0x81F5 (regs [(1, 0x50), (15, 0x20)]) (fun t => t.reg 1 == 0x4F && t.reg 15 == 1) = true := by decide
theorem test_8126 : runs 0x8126 (regs [(1, 5), (2, 0xAA)]) (fun t => t.reg 1 == 2 && t.reg 2 == 0xAA && t.reg 15 == 1) = true := by
  decide
theorem test_8F06 : runs 0x8F06 (regs [(15, 0xFF)]) (fun t => t.reg 15 == 0) = true := by decide
theorem test_8127 : runs 0x8127 (regs [(1, 0x50), (2, 0x20)]) (fun t => t.reg 1 == 0xD0 && t.reg 15 == 0) = true := by decide
theorem test_81F7 : runs 0x81F7 (regs [(1, 0x20), (15, 0x50)]) (fun t => t.reg 1 == 0xE1 && t.reg 15 == 1) = true := by decide
theorem test_812E : runs 0x812E (regs [(1, 0x81), (2, 0xAA)]) (fun t => t.reg 1 == 2 && t.reg 2 == 0xAA && t.reg 15 == 1) = true := by
  decide
theorem test_8F0E : runs 0x8F0E (regs [(15, 0xC0)]) (fun t => t.reg 15 == 2) = true := by decide
theorem test_C30F : runs 0xC30F { State.reset with rndIn := [0xB7] } (fun t => t.reg 3 == 7 && t.rndIn == []) = true := by decide
/-- Any draw AND 0 is 0, the free one too. -/
theorem test_C300 : (nextRnd State.reset &&& 0) = 0 := BitVec.and_zero

theorem test_AFFF : runs 0xAFFF State.reset (fun t => t.i == 0x0FFF) = true := by decide
theorem test_F11E : runs 0xF11E ((regs [(1, 2), (15, 6)]).setI 0xFFFF) (fun t => t.i == 1 && t.reg 15 == 6) = true := by decide
theorem test_F029 : runs 0xF029 (regs [(0, 0x1A)]) (fun t => t.i == 0x32) = true := by decide
theorem test_F033 : runs 0xF033 ((regs [(0, 254)]).setI 0xFFD)
    (fun t => t.mem.read 0xFFD == 2 && t.mem.read 0xFFE == 5 && t.mem.read 0xFFF == 4) = true := by decide
theorem test_F033_out : runs 0xF033 (State.reset.setI 0xFFE)
    (fun t => t == { State.reset.setI 0xFFE with fault := some .dataOutOfRange }) = true := by decide
theorem test_F255 : runs 0xF255 ((regs [(0, 0x11), (1, 0x22), (2, 0x33), (3, 0x44)]).setI 0x400)
    (fun t => t.mem.read 0x400 == 0x11 && t.mem.read 0x402 == 0x33 && t.mem.read 0x403 == 0 && t.i == 0x400) = true := by decide
theorem test_F155_out : runs 0xF155 ((regs [(0, 0x11)]).setI 0xFFF)
    (fun t => t == { (regs [(0, 0x11)]).setI 0xFFF with fault := some .dataOutOfRange }) = true := by decide
theorem test_F165_font : runs 0xF165 State.reset (fun t => t.reg 0 == 0xF0 && t.reg 1 == 0x90 && t.reg 2 == 0) = true := by decide
theorem test_F165_out : runs 0xF165 (State.reset.setI 0x1000)
    (fun t => t == { State.reset.setI 0x1000 with fault := some .dataOutOfRange }) = true := by decide

theorem test_00E0 : runs 0x00E0 (light 3 4 (regs [(15, 5)])) (fun t => !Display.cell t.display 3 4 && t.redraw && t.reg 15 == 5) = true := by
  decide
theorem test_D011_collides : runs 0xD011 (light 0 0 ((poke 0x300 0xC0 State.reset).setI 0x300))
    (fun t => !Display.cell t.display 0 0 && Display.cell t.display 1 0 && t.reg 15 == 1) = true := by decide
theorem test_D012_out : runs 0xD012 (State.reset.setI 0xFFF)
    (fun t => t == { State.reset.setI 0xFFF with fault := some .dataOutOfRange }) = true := by decide

theorem test_E09E_masks : runs 0xE09E (press [5] (regs [(0, 0x15)])) (fun t => t.pc == 0x204) = true := by decide
theorem test_E09E_up : runs 0xE09E (regs [(0, 5)]) (fun t => t.pc == 0x202) = true := by decide
theorem test_E0A1 : runs 0xE0A1 (press [5] (regs [(0, 5)])) (fun t => t.pc == 0x202) = true := by decide
theorem test_E0A1_up : runs 0xE0A1 (regs [(0, 5)]) (fun t => t.pc == 0x204) = true := by decide
theorem test_F30A_waits : runs 0xF30A State.reset (fun t => t == State.reset) = true := by decide
theorem test_F30A_lowest : runs 0xF30A (press [4, 9] State.reset) (fun t => t.reg 3 == 4 && t.pc == 0x202) = true := by decide
theorem test_F107 : runs 0xF107 (State.reset.setDt 0x2C) (fun t => t.reg 1 == 0x2C) = true := by decide
theorem test_F015 : runs 0xF015 (regs [(0, 60)]) (fun t => t.dt == 60) = true := by decide
theorem test_F218 : runs 0xF218 (regs [(2, 10)]) (fun t => t.st == 10 && soundOn t) = true := by decide

/-- A placed word is what the next step executes. -/
theorem test_step_of_placed_word :
    (match step (State.reset.withFetchWord 16 0x6C5D) with
     | .next t => t.reg 0xC == 0x5D && t.pc == 0x202
     | .fault _ => false
     | .refused _ => false) = true := by decide

/-- An odd PC fetches like any other (R55), and PC 0xFFF does not (R203). -/
theorem test_fetch : fetch (poke 0x202 7 (poke 0x201 0x60 (State.reset.setPc 0x201))) = some 0x6007 ∧
    fetch (State.reset.setPc 0xFFF) = none := by decide

/-! ### Witnesses: states and operands that meet the hypotheses of each obligation, every clause, at the ends of its range -/

theorem witness_InitLoadsFontAndImage :
    Config.defaultFont.length = 80 ∧ 3584 < (List.replicate 3585 (0 : Byte)).length ∧ (List.replicate 3584 (0 : Byte)).length ≤ 3584 ∧
    ([] : List Byte).length ≤ 3584 := by
  exact ⟨by decide, by rw [List.length_replicate]; omega, by rw [List.length_replicate], Nat.zero_le _⟩

/-- Addresses on both sides of each border the image clause draws, for a one byte image. -/
theorem witness_InitLoadsFontAndImage_addresses :
    (79 < 80 ∧ ¬ 80 < 80) ∧ (512 ≤ 512 ∧ 512 < 512 + ([1] : List Byte).length) ∧ ¬ 513 < 512 + ([1] : List Byte).length ∧ 4095 < 4096 := by
  decide

/-- Addresses of the font table and above it, the first and the last. -/
theorem witness_ResetLeavesTheTablesValues : (0 < 80 ∧ 79 < 80) ∧ (80 ≤ 80 ∧ 80 ≤ 4095) := by decide

theorem witness_FieldsOfAWord : (0 < 16 ∧ 0 < 16 ∧ 0 < 16 ∧ 0 < 16) ∧ (15 < 16 ∧ 15 < 16 ∧ 15 < 16 ∧ 15 < 16) := by decide
theorem witness_DecodeUndoesEncode : (Instr.res8 15 15 8).wf = true ∧ (Instr.sys 0x0E1).wf = true ∧ (Instr.resF 0 0xFF).wf = true := by
  decide
theorem witness_BytesDecodeBigEndian : (Instr.drw 1 2 15).wf = true ∧ (Instr.resE 3 0).wf = true := by decide

theorem witness_NoOpsOnlyAdvancePc :
    (fieldOP 0x00E1 = 0 ∧ (0x00E1 : Word) ≠ 0x00E0 ∧ (0x00E1 : Word) ≠ 0x00EE) ∧
    (fieldOP 0x812F = 8 ∧ fieldN 0x812F ∈ ([8, 9, 0xA, 0xB, 0xC, 0xD, 0xF] : List Nibble)) ∧
    (fieldOP 0xE09F = 0xE ∧ fieldNN 0xE09F ∉ ([0x9E, 0xA1] : List Byte)) ∧
    (fieldOP 0xF000 = 0xF ∧ fieldNN 0xF000 ∉ ([0x07, 0x0A, 0x15, 0x18, 0x1E, 0x29, 0x33, 0x55, 0x65] : List Byte)) := by decide

theorem witness_RetPopsOrUnderflows :
    (stacked 0).sp.val = 0 ∧ (stacked 1).sp.val = (0 : Fin 12).val + 1 ∧ (stacked 12).sp.val = (11 : Fin 12).val + 1 := by decide
theorem witness_JpSetsPc : fieldOP 0x1000 = 1 ∧ fieldOP 0x1FFF = 1 := by decide
theorem witness_CallPushesOrOverflows :
    fieldOP 0x2300 = 2 ∧ (stacked 12).sp.val = 12 ∧ (stacked 0).sp.val = (0 : Fin 12).val ∧ (stacked 11).sp.val = (11 : Fin 12).val ∧
    (3 : Fin 12) ≠ 11 := by decide
theorem witness_JpV0AddsRegisterZero : fieldOP 0xBFFF = 0xB := by decide
theorem witness_ImmediateSkips : fieldOP 0x3A42 = 3 ∧ fieldOP 0x4A42 = 4 := by decide
theorem witness_RegisterSkips : fieldOP 0x512F = 5 ∧ fieldOP 0x9120 = 9 := by decide
theorem witness_KeySkips :
    (fieldOP 0xE09E = 0xE ∧ fieldNN 0xE09E = 0x9E) ∧ (fieldOP 0xE0A1 = 0xE ∧ fieldNN 0xE0A1 = 0xA1) ∧
    (15 : Fin 16).val = ((regs [(0, 0xFF)]).reg 0).toNat % 16 ∧ (0 : Fin 16).val = ((regs [(0, 0x10)]).reg 0).toNat % 16 := by decide
theorem witness_LoadsAndImmediateAdd : fieldOP 0x6F80 = 6 ∧ fieldOP 0x7102 = 7 ∧ (fieldOP 0x8120 = 8 ∧ fieldN 0x8120 = 0) ∧
    (1 : Reg) ≠ 0 := by decide
theorem witness_LogicBitByBit :
    (fieldOP 0x8121 = 8 ∧ fieldN 0x8121 = 1) ∧ (fieldOP 0x8122 = 8 ∧ fieldN 0x8122 = 2) ∧ (fieldOP 0x8123 = 8 ∧ fieldN 0x8123 = 3) := by
  decide

/-- The four cases of the tables of 8XY4, 8XY5 and 8XY7, and a register that is neither `X` nor `F`. -/
theorem witness_flag_cases :
    ((1 : Reg) ≠ 15 ∧ (2 : Reg) ≠ 15) ∧ ((14 : Reg) ≠ 15 ∧ (15 : Reg) = 15) ∧ ((15 : Reg) = 15 ∧ (1 : Reg) ≠ 15) ∧ (3 : Reg) ≠ 1 := by
  decide
theorem witness_AddWithCarry : fieldOP 0x8124 = 8 ∧ fieldN 0x8124 = 4 := by decide
theorem witness_SubtractWithNoBorrow : fieldOP 0x8125 = 8 ∧ fieldN 0x8125 = 5 := by decide
theorem witness_ReverseSubtractWithNoBorrow : fieldOP 0x8127 = 8 ∧ fieldN 0x8127 = 7 := by decide
theorem witness_ShiftsByOne : (fieldOP 0x8126 = 8 ∧ fieldN 0x8126 = 6) ∧ (fieldOP 0x812E = 8 ∧ fieldN 0x812E = 0xE) ∧ (14 : Reg) ≠ 15 := by
  decide
theorem witness_RndMasksOneDraw :
    fieldOP 0xC30F = 0xC ∧ ({ State.reset with rndIn := [0xB7, 1] } : State).rndIn = 0xB7 :: [1] ∧ State.reset.rndIn = [] := by decide
theorem witness_IndexLoads : fieldOP 0xAFFF = 0xA ∧ (fieldOP 0xF029 = 0xF ∧ fieldNN 0xF029 = 0x29) := by decide
theorem witness_IndexAddWrapsAt65536 : fieldOP 0xF11E = 0xF ∧ fieldNN 0xF11E = 0x1E := by decide
theorem witness_BcdStoresThreeDigits :
    (fieldOP 0xF033 = 0xF ∧ fieldNN 0xF033 = 0x33) ∧ Memory.wf State.reset.mem = true ∧ effAddr (State.reset.setI 0xFFD) 2 ≤ 4095 ∧
    4095 < effAddr (State.reset.setI 0xFFE) 2 ∧ 4095 < effAddr (State.reset.setI 0xFFFF) 2 := by decide
theorem witness_StoreRegistersToMemory :
    (fieldOP 0xFF55 = 0xF ∧ fieldNN 0xFF55 = 0x55) ∧ Memory.wf State.reset.mem = true ∧
    effAddr (State.reset.setI 0xFF0) (15 : Reg).val ≤ 4095 ∧ effAddr (State.reset.setI 0xFFF) (0 : Reg).val ≤ 4095 ∧
    4095 < effAddr (State.reset.setI 0xFFF) (1 : Reg).val ∧ (15 : Reg) ≤ 15 := by decide
theorem witness_LoadRegistersFromMemory :
    (fieldOP 0xF265 = 0xF ∧ fieldNN 0xF265 = 0x65) ∧ effAddr (State.reset.setI 0xFF0) (15 : Reg).val ≤ 4095 ∧
    4095 < effAddr (State.reset.setI 0x1000) (0 : Reg).val ∧ (2 : Reg) ≤ 2 ∧ (2 : Reg) < 3 := by decide

/-- DXYN: a last row in range, a first row out of range, no row at all, a row clipped away below an address out of range. -/
theorem witness_DrwXorsTheClippedSprite :
    fieldOP 0xD015 = 0xD ∧
    (0 < min 1 (32 - 0) ∧ effAddr (State.reset.setI 0xFFF) (min 1 (32 - 0) - 1) ≤ 4095) ∧
    (0 < min 2 (32 - 0) ∧ 4095 < effAddr (State.reset.setI 0xFFF) (min 2 (32 - 0) - 1)) ∧
    (0 < min 2 (32 - 31) ∧ effAddr (State.reset.setI 0xFFF) (min 2 (32 - 31) - 1) ≤ 4095) ∧ ¬ 0 < min 0 (32 - 0) := by decide
theorem witness_KeyWaitStoresLowestKeyOrRepeats :
    (fieldOP 0xF30A = 0xF ∧ fieldNN 0xF30A = 0x0A) ∧
    ((press [4, 9] State.reset).keys.get 4 = true ∧ ∀ j : Fin 16, j < 4 → (press [4, 9] State.reset).keys.get j = false) ∧
    ((press [15] State.reset).keys.get 15 = true ∧ ∀ j : Fin 16, j < 15 → (press [15] State.reset).keys.get j = false) ∧
    (press [0] State.reset).keys.get 0 = true ∧ ∀ k : Fin 16, State.reset.keys.get k = false := by decide
theorem witness_TimerAccess :
    (fieldOP 0xF107 = 0xF ∧ fieldNN 0xF107 = 0x07) ∧ (fieldOP 0xF015 = 0xF ∧ fieldNN 0xF015 = 0x15) ∧
    (fieldOP 0xF218 = 0xF ∧ fieldNN 0xF218 = 0x18) := by decide

theorem witness_StoreThenLoadRestoresRegisters :
    ∃ t, Memory.wf State.reset.mem = true ∧ effAddr (State.reset.setI 0xFF0) (15 : Reg).val ≤ 4095 ∧
      exec (.store 15) (State.reset.setI 0xFF0) = .next t := ⟨_, by decide, by decide, rfl⟩
theorem witness_ReturnUndoesCall : (stacked 0).sp.val < 12 ∧ (stacked 11).sp.val < 12 ∧ (10 : Fin 12).val < (stacked 11).sp.val := by decide

/-- A sprite drawn twice on the reset display, where it lands on cells that are off. -/
theorem witness_DrawingTwiceRestoresTheDisplay :
    ∃ t u, (0 : Reg) ≠ 15 ∧ (1 : Reg) ≠ 15 ∧ exec (.drw 0 1 5) State.reset = .next t ∧ t.fault = none ∧
      exec (.drw 0 1 5) t = .next u ∧
      (∀ cx cy, cx < 64 → cy < 32 → spritePixel State.reset 0 0 5 cx cy = true → Display.cell State.reset.display cx cy = false) ∧
      ∃ cx cy, cx < 64 ∧ cy < 32 ∧ spritePixel State.reset 0 0 5 cx cy = true :=
  ⟨_, _, by decide, by decide, rfl, rfl, rfl, fun cx cy _ _ _ => Display.cell_clear cx cy, 0, 0, by decide, by decide, by decide⟩
theorem witness_StoreIsSeenByTheNextFetch :
    ∃ t, Memory.wf State.reset.mem = true ∧ 1 ≤ (1 : Reg).val ∧ (State.reset.setI 0x202).i = (State.reset.setI 0x202).pc + 2 ∧
      effAddr (State.reset.setI 0x202) (1 : Reg).val ≤ 4095 ∧ exec (.store 1) (State.reset.setI 0x202) = .next t :=
  ⟨_, by decide, by decide, by decide, by decide, rfl⟩

theorem witness_StepFetchesAndExecutes :
    (State.reset.setPc 4094).pc.toNat + 1 ≤ 4095 ∧ 4095 < (State.reset.setPc 4095).pc.toNat + 1 ∧
    4095 < (State.reset.setPc 0xFFFF).pc.toNat + 1 := by decide
theorem witness_ASlotRunsTheDecodedInstruction :
    let s := State.reset.setPhase (.inBatch 1)
    s.phase = .inBatch (0 + 1) ∧ s.runState = .running ∧ s.fault = none ∧ s.pc.toNat ≤ 4094 ∧
    decodeBytes [s.mem.read s.pc.toNat, s.mem.read (s.pc.toNat + 1)] = .ok (.sys 0, []) := ⟨rfl, rfl, rfl, by decide, rfl⟩
theorem witness_PlacedWordRunsNext : Memory.wf State.reset.mem = true ∧ 0 < 65536 ∧ 65535 < 65536 := by decide

/-- One instruction of each fault cause, answering the latched fault, and one that latches none. -/
theorem witness_FaultsAreThoseOfTheTable :
    exec (.call 0x300) (stacked 12) = .next { stacked 12 with fault := some .stackOverflow } ∧
    exec .ret (stacked 0) = .next { stacked 0 with fault := some .stackUnderflow } ∧
    exec (.bcd 0) (State.reset.setI 0xFFE) = .next { State.reset.setI 0xFFE with fault := some .dataOutOfRange } ∧
    exec (.store 1) (State.reset.setI 0xFFF) = .next { State.reset.setI 0xFFF with fault := some .dataOutOfRange } ∧
    exec (.load 0) (State.reset.setI 0x1000) = .next { State.reset.setI 0x1000 with fault := some .dataOutOfRange } ∧
    exec (.drw 0 1 2) (State.reset.setI 0xFFF) = .next { State.reset.setI 0xFFF with fault := some .dataOutOfRange } ∧
    exec (.jp 0) State.reset = .next { State.reset with pc := 0 } := ⟨rfl, rfl, rfl, rfl, rfl, rfl, rfl⟩
theorem witness_AFaultFreezesTheMachine :
    ∃ t, (State.reset.setFault .stackOverflow).fault = some .stackOverflow ∧
      stepWith 500 (State.reset.setFault .stackOverflow) = .next t := ⟨_, rfl, rfl⟩

/-- An answer of `exec`, for the statements about every instruction that answers a next state. -/
theorem witness_exec_answers :
    (∃ t, exec (.store 2) State.reset = .next t) ∧ (∃ t, exec (.drw 0 0 5) State.reset = .next t) ∧
    (∃ t, exec (.ldVxK 0) State.reset = .next t) ∧ ∃ t, exec (.addReg 15 15) State.reset = .next t :=
  ⟨⟨_, rfl⟩, ⟨_, rfl⟩, ⟨_, rfl⟩, ⟨_, rfl⟩⟩
theorem witness_MutatorsOfEachPieceOfState : ∃ t, exec (.call 0x300) (stacked 11) = .next t := ⟨_, rfl⟩
theorem witness_RedrawIsRaisedByClsAndDrw : ∃ t, exec .cls State.reset = .next t := ⟨_, rfl⟩

/-- One instruction that completes and one that faults, and the conditions of the key wait's two cases. -/
theorem witness_PcAfterEachInstruction :
    (∃ t, (stacked 12).fault = none ∧ exec .ret (stacked 12) = .next t ∧ t.fault = none) ∧
    (∃ t, (stacked 0).fault = none ∧ exec .ret (stacked 0) = .next t ∧ t.fault ≠ none) ∧
    (∃ t, State.reset.fault = none ∧ exec (.ldVxK 3) State.reset = .next t ∧ t.fault = none ∧ ∀ k, State.reset.keys.get k = false) ∧
    ∃ k, (press [15] State.reset).keys.get k = true :=
  ⟨⟨_, rfl, rfl, rfl⟩, ⟨_, rfl, rfl, by decide⟩, ⟨_, rfl, rfl, rfl, by decide⟩, 15, by decide⟩

/-- Two states with one live entry that differ in the dead one above it. -/
theorem witness_DeadStackEntriesAreUnobservable :
    ∃ t, SameButDeadStack (stacked 1) { stacked 1 with stack := (stacked 1).stack.set 1 7 } ∧ exec .ret (stacked 1) = .next t :=
  ⟨_, ⟨rfl, by decide⟩, rfl⟩

theorem witness_TickHeadAppliesEventsThenKeys :
    let mv : HostMove := ⟨Vector.replicate 16 true, true, true⟩
    ({ State.reset with moves := [mv] } : State).phase = .betweenTicks ∧ ({ State.reset with moves := [mv] } : State).moves = mv :: [] ∧
    (State.reset.phase = .betweenTicks ∧ State.reset.moves = [] ∧ Config.hostMove 0 = Config.hostMove State.reset.ticks) ∧
    mv.evQuit = true ∧ (HostMove.mk mv.keysIn true false).evQuit = false ∧
    State.reset.runState = .running ∧ (State.reset.setRunState .paused).runState = .paused ∧
    (State.reset.setRunState .halted).runState = .halted := ⟨rfl, rfl, ⟨rfl, rfl, rfl⟩, rfl, rfl, rfl, rfl, rfl⟩
theorem witness_TickTailCountsDownAndReports :
    (State.reset.setPhase (.inBatch 0)).phase = .inBatch 0 ∧ State.reset.runState = .running ∧ State.reset.fault = none ∧
    (State.reset.setRunState .paused).runState ≠ .running ∧ (State.reset.setFault .stackUnderflow).fault ≠ none := by decide
theorem witness_PausedTickFreezes :
    (applyEvents ⟨Vector.replicate 16 true, true, false⟩ State.reset).runState = .paused ∧
    (applyEvents ⟨Vector.replicate 16 true, false, false⟩ (State.reset.setRunState .paused)).runState = .paused := by decide
theorem witness_HaltedTickOnlyReports : (State.reset.setRunState .halted).runState = .halted := rfl
theorem witness_FaultedTickFreezes :
    (State.reset.setFault .dataOutOfRange).fault ≠ none ∧ (State.reset.setFault .dataOutOfRange).runState ≠ .halted := by decide
theorem witness_ClockBelow60OnlyCountsDown :
    59 < 60 ∧ (applyEvents ⟨Vector.replicate 16 false, false, false⟩ State.reset).runState = .running ∧ State.reset.fault = none := by
  decide
theorem witness_KeysAreConstantWithinABatch :
    ∃ t u, (State.reset.setPhase (.inBatch 0)).phase = .inBatch 0 ∧ stepWith 500 (State.reset.setPhase (.inBatch 0)) = .next t ∧
      (State.reset.setPhase (.inBatch 8)).phase = .inBatch 8 ∧ stepWith 500 (State.reset.setPhase (.inBatch 8)) = .next u :=
  ⟨_, _, rfl, rfl, rfl, rfl⟩
theorem witness_KeyWaitSpansATick :
    let s := poke 0x200 0xF3 (poke 0x201 0x0A State.reset)
    let mv : HostMove := ⟨Vector.replicate 16 false, false, false⟩
    s.runState = .running ∧ s.fault = none ∧ mv.evPause = false ∧ mv.evQuit = false ∧ (∀ k, mv.keysIn.get k = false) ∧
    s.pc.toNat ≤ 4094 ∧ decode (wordAt s.mem s.pc.toNat) = .ldVxK 3 := by decide
theorem witness_StepsWalkThroughTheTick : State.reset.phase = .betweenTicks := rfl
theorem witness_SpinningChangesNothing :
    Finished (poke 0x200 0x12 (State.reset.setPhase (.inBatch 1))) ∧
    (poke 0x200 0x12 (State.reset.setPhase (.inBatch 1))).runState = .running ∧
    (poke 0x200 0x12 (State.reset.setPhase (.inBatch 1))).phase = .inBatch (0 + 1) :=
  ⟨.inr ⟨rfl, by decide, 0x200, by decide, rfl⟩, rfl, rfl⟩

/-- A state in the middle of a batch, with a call on the stack and a byte stored, that meets the invariant, and its step. -/
theorem witness_EveryStepKeepsTheInvariant :
    Inv 500 ((poke 0x300 7 (stacked 1)).setPhase (.inBatch 8)) ∧
    ∃ t, stepWith 500 ((poke 0x300 7 (stacked 1)).setPhase (.inBatch 8)) = .next t :=
  ⟨⟨by decide, by decide, by decide, fun n h => by cases h; decide⟩, ⟨_, rfl⟩⟩

end Sys2Proof.Tests
end

/-! The fields of a word as numbers (spec/30_encoding.md R71): the word of four nibbles is the encoder's `encXYN`, so the laws of the
encoder's fields give the four nibbles, and `NN` and `NNN` are concatenations of them. -/

namespace Sys2Proof

theorem toNat_append_eq_mul_add {n m : Nat} (a : BitVec n) (b : BitVec m) :
    (a ++ b).toNat = a.toNat * 2 ^ m + b.toNat := by
  rw [BitVec.toNat_append, ← Nat.shiftLeft_add_eq_or_of_lt b.isLt, Nat.shiftLeft_eq]

/-- `NN = Y*16 + N` (R71), for every word. -/
theorem fieldNN_toNat (w : Word) : (fieldNN w).toNat = (fieldY w).val * 16 + (fieldN w).val := by
  rw [← fieldNN_eq, toNat_append_eq_mul_add, nib_toNat, nib_toNat]
  rfl

/-- `NNN = X*256 + NN` (R71), for every word. -/
theorem fieldNNN_toNat (w : Word) : (fieldNNN w).toNat = (fieldX w).val * 256 + (fieldNN w).toNat := by
  rw [← fieldNNN_eq, toNat_append_eq_mul_add, nib_toNat]
  rfl

theorem encXYN_toNat (op : BitVec 4) (x y : Reg) (n : Nibble) :
    (encXYN op x y n).toNat = op.toNat * 4096 + x.val * 256 + y.val * 16 + n.val := by
  unfold encXYN
  simp only [toNat_append_eq_mul_add, nib_toNat]
  omega

/-- The word whose value is `op*4096 + x*256 + y*16 + n` is the encoder's word of those four nibbles. -/
theorem ofNat_nibbles_eq_encXYN (op : BitVec 4) (x y : Reg) (n : Nibble) :
    BitVec.ofNat 16 (op.toNat * 4096 + x.val * 256 + y.val * 16 + n.val) = encXYN op x y n := by
  rw [← encXYN_toNat, BitVec.ofNat_toNat, BitVec.setWidth_eq]

/-- Settles O4: the word is `encXYN` of its nibbles, whose fields are the nibbles themselves. -/
theorem fieldsOfAWord : Obligations.FieldsOfAWord := by
  intro op x y n hop hx hy hn w
  have hw : w = encXYN ⟨op, hop⟩ ⟨x, hx⟩ ⟨y, hy⟩ ⟨n, hn⟩ := ofNat_nibbles_eq_encXYN ⟨op, hop⟩ ⟨x, hx⟩ ⟨y, hy⟩ ⟨n, hn⟩
  have hX : (fieldX w).val = x := by rw [hw, fieldX_encXYN]
  have hY : (fieldY w).val = y := by rw [hw, fieldY_encXYN]
  have hN : (fieldN w).val = n := by rw [hw, fieldN_encXYN]
  have hOP : (fieldOP w).toNat = op := by rw [hw, fieldOP_encXYN]; rfl
  have hNN : (fieldNN w).toNat = y * 16 + n := by rw [fieldNN_toNat, hY, hN]
  have hNNN : (fieldNNN w).toNat = x * 256 + y * 16 + n := by rw [fieldNNN_toNat, hX, hNN, Nat.add_assoc]
  exact ⟨hOP, hX, hY, hN, hNN, hNNN⟩

end Sys2Proof

/-! The no-ops of groups 0, 8, E and F (spec/40_instruction_cycle.md R94 to R97): the top nibble picks the group's decoder (R74), a
word that no row of the group takes falls through its comparisons to the no-op (D13, log 21), and a no-op is `complete` with no
effect of its own. -/

namespace Sys2Proof

/-! ### The decoder of each of the four groups (R74) -/

theorem decode_of_fieldOP_0 {w : Word} (h : fieldOP w = 0) : decode w = decode0 w := by
  unfold decode
  rw [h]
  rfl

theorem decode_of_fieldOP_8 {w : Word} (h : fieldOP w = 8) : decode w = decode8 (fieldX w) (fieldY w) (fieldN w) := by
  unfold decode
  rw [h]
  rfl

theorem decode_of_fieldOP_E {w : Word} (h : fieldOP w = 0xE) : decode w = decodeE (fieldX w) (fieldNN w) := by
  unfold decode
  rw [h]
  rfl

theorem decode_of_fieldOP_F {w : Word} (h : fieldOP w = 0xF) : decode w = decodeF (fieldX w) (fieldNN w) := by
  unfold decode
  rw [h]
  rfl

/-! ### What a group's decoder answers on a code that no row takes -/

theorem decode0_of_ne {w : Word} (hcls : w ≠ 0x00E0) (hret : w ≠ 0x00EE) : decode0 w = .sys (fieldNNN w) := by
  rw [decode0, if_neg hcls, if_neg hret]

theorem decode8_of_notMem_usedN8 (x y : Reg) {n : Nibble} (h : n ∉ usedN8) : decode8 x y n = .res8 x y n := by
  simp only [usedN8, List.mem_cons, List.not_mem_nil, or_false, not_or] at h
  simp only [decode8, h, if_false]

theorem decodeE_of_notMem_usedNNE (x : Reg) {nn : Byte} (h : nn ∉ usedNNE) : decodeE x nn = .resE x nn := by
  simp only [usedNNE, List.mem_cons, List.not_mem_nil, or_false, not_or] at h
  simp only [decodeE, h, if_false]

theorem decodeF_of_notMem_usedNNF (x : Reg) {nn : Byte} (h : nn ∉ usedNNF) : decodeF x nn = .resF x nn := by
  simp only [usedNNF, List.mem_cons, List.not_mem_nil, or_false, not_or] at h
  simp only [decodeF, h, if_false]

/-- R95's low nibbles are those that no row of group 8 takes. -/
theorem mem_reservedN8_iff_notMem_usedN8 :
    ∀ n : Nibble, n ∈ ([8, 9, 0xA, 0xB, 0xC, 0xD, 0xF] : List Nibble) ↔ n ∉ usedN8 := by
  decide

/-! ### The no-ops' meanings (R90, R94 to R97) -/

namespace Machine

theorem exec_sys (nnn : Addr12) (s : State) : exec (.sys nnn) s = .next { s with pc := s.pc + 2 } := complete_eq id s
theorem exec_res8 (x y : Reg) (n : Nibble) (s : State) : exec (.res8 x y n) s = .next { s with pc := s.pc + 2 } := complete_eq id s
theorem exec_resE (x : Reg) (nn : Byte) (s : State) : exec (.resE x nn) s = .next { s with pc := s.pc + 2 } := complete_eq id s
theorem exec_resF (x : Reg) (nn : Byte) (s : State) : exec (.resF x nn) s = .next { s with pc := s.pc + 2 } := complete_eq id s

end Machine

/-- Settles O9: the top nibble picks the group's decoder, which answers the no-op on a code that no row takes. -/
theorem noOpsOnlyAdvancePc : Obligations.NoOpsOnlyAdvancePc := by
  refine ⟨fun w hop hcls hret => ?_, fun w hop hn => ?_, fun w hop hnn => ?_, fun w hop hnn => ?_, fun s nnn x y n nn => ?_⟩
  · rw [decode_of_fieldOP_0 hop, decode0_of_ne hcls hret]
  · have hfree : fieldN w ∉ usedN8 := (mem_reservedN8_iff_notMem_usedN8 _).mp hn
    rw [decode_of_fieldOP_8 hop, decode8_of_notMem_usedN8 _ _ hfree]
  · rw [decode_of_fieldOP_E hop, decodeE_of_notMem_usedNNE _ hnn]
  · rw [decode_of_fieldOP_F hop, decodeF_of_notMem_usedNNF _ hnn]
  · exact ⟨Machine.exec_sys nnn s, Machine.exec_res8 x y n s, Machine.exec_resE x nn s, Machine.exec_resF x nn s⟩

end Sys2Proof

/-! Loads and the immediate add (spec/42_load_and_alu.md R120 to R122): each completes with one register write, so one lemma about
such an ending gives the register written, the registers kept and the frame; only the byte written differs. -/

namespace Sys2Proof

/-! ### The words of groups 6 and 7, and row 0 of group 8 (R74) -/

theorem decode_of_fieldOP_6 {w : Word} (h : fieldOP w = 6) : decode w = .ldImm (fieldX w) (fieldNN w) := by
  unfold decode
  rw [h]
  rfl

theorem decode_of_fieldOP_7 {w : Word} (h : fieldOP w = 7) : decode w = .addImm (fieldX w) (fieldNN w) := by
  unfold decode
  rw [h]
  rfl

theorem decode8_zero (x y : Reg) : decode8 x y 0 = .ldReg x y := if_pos rfl

/-! ### One register write after the advance (R90) -/

namespace Machine

/-- An instruction that completes by writing a byte to `V[x]` writes that byte, keeps every other register, and otherwise only
advances `PC`. -/
theorem complete_setReg_writes_only (value : State → Byte) (x : Reg) (s : State) :
    ∃ t, complete (fun u => u.setReg x (value u)) s = .next t ∧ t.reg x = value s.advance ∧
      (∀ r, r ≠ x → t.reg r = s.reg r) ∧ t = { s with v := t.v, pc := s.pc + 2 } := by
  refine ⟨s.advance.setReg x (value s.advance), rfl, State.reg_setReg_self _ _ _, fun r hr => ?_, rfl⟩
  rw [State.reg_setReg, if_neg hr, State.reg_advance]

theorem exec_ldImm (x : Reg) (nn : Byte) (s : State) : exec (.ldImm x nn) s = complete (fun u => u.setReg x nn) s := rfl
theorem exec_addImm (x : Reg) (nn : Byte) (s : State) :
    exec (.addImm x nn) s = complete (fun u => u.setReg x (u.reg x + nn)) s := rfl
theorem exec_ldReg (x y : Reg) (s : State) : exec (.ldReg x y) s = complete (fun u => u.setReg x (u.reg y)) s := rfl

end Machine

open Machine in
/-- Settles O17: each of the three is one register write; the advance leaves the registers that the written byte is read from, and
the sum of two bytes is taken modulo 256. -/
theorem loadsAndImmediateAdd : Obligations.LoadsAndImmediateAdd := by
  refine ⟨fun w hop => decode_of_fieldOP_6 hop, fun w hop => decode_of_fieldOP_7 hop, fun w hop hn => ?_,
    fun s x y nn => ⟨?_, ?_, ?_⟩⟩
  · rw [decode_of_fieldOP_8 hop, hn, decode8_zero]
  · rw [exec_ldImm]
    exact complete_setReg_writes_only (fun _ => nn) x s
  · obtain ⟨t, hnext, hx, hframe⟩ := complete_setReg_writes_only (fun u => u.reg x + nn) x s
    have hsum : (t.reg x).toNat = ((s.reg x).toNat + nn.toNat) % 256 := by rw [hx, State.reg_advance, BitVec.toNat_add]
    exact ⟨t, (exec_addImm x nn s).trans hnext, hsum, hframe⟩
  · rw [exec_ldReg]
    exact complete_setReg_writes_only (fun u => u.reg y) x s

end Sys2Proof

/-! The index loads ANNN and FX29 (spec/43_index_and_memory.md R140, R142): each completes with one write of `I`, so one lemma about
such an ending gives the word written and the frame; only the word written differs. -/

namespace Sys2Proof

/-! ### The words of group A, and row 29 of group F (R74) -/

theorem decode_of_fieldOP_A {w : Word} (h : fieldOP w = 0xA) : decode w = .ldI (fieldNNN w) := by
  unfold decode
  rw [h]
  rfl

theorem decodeF_29 (x : Reg) : decodeF x 0x29 = .ldF x := rfl

/-! ### One write of the index register after the advance (R90) -/

namespace Machine

/-- An instruction that completes by writing a word to `I` writes that word and otherwise only advances `PC`. -/
theorem complete_setI_writes_only (value : State → Word) (s : State) :
    ∃ t, complete (fun u => u.setI (value u)) s = .next t ∧ t.i = value s.advance ∧ t = { s with i := t.i, pc := s.pc + 2 } :=
  ⟨s.advance.setI (value s.advance), rfl, State.setI_i _ _, rfl⟩

theorem exec_ldI (nnn : Addr12) (s : State) : exec (.ldI nnn) s = complete (fun u => u.setI (addrOf nnn)) s := rfl
theorem exec_ldF (x : Reg) (s : State) : exec (.ldF x) s = complete (fun u => u.setI (glyphAddr (u.reg x))) s := rfl

/-- The sixteen glyphs of five bytes end at address 80, so the product fits the register. -/
theorem glyphAddr_toNat (b : Byte) : (glyphAddr b).toNat = b.toNat % 16 * 5 := by
  have hfits : b.toNat % 16 * 5 < 2 ^ 16 := by omega
  exact (BitVec.toNat_ofNat _ _).trans (Nat.mod_eq_of_lt hfits)

end Machine

open Machine in
/-- Settles O24: each of the two is one write of `I`; an address of twelve bits and a glyph's address both fit sixteen bits, and the
advance leaves the register that names the glyph. -/
theorem indexLoads : Obligations.IndexLoads := by
  refine ⟨fun w hop => decode_of_fieldOP_A hop, fun w hop hnn => ?_, fun s nnn x => ⟨?_, ?_⟩⟩
  · rw [decode_of_fieldOP_F hop, hnn, decodeF_29]
  · obtain ⟨t, hnext, hi, hframe⟩ := complete_setI_writes_only (fun _ => addrOf nnn) s
    have haddr : t.i.toNat = nnn.toNat := by rw [hi, addrOf_toNat]
    exact ⟨t, (exec_ldI nnn s).trans hnext, haddr, hframe⟩
  · obtain ⟨t, hnext, hi, hframe⟩ := complete_setI_writes_only (fun u => glyphAddr (u.reg x)) s
    have hglyph : t.i.toNat = (s.reg x).toNat % 16 * 5 := by rw [hi, glyphAddr_toNat, State.reg_advance]
    exact ⟨t, (exec_ldF x s).trans hnext, hglyph, hframe⟩

end Sys2Proof

/-! Clearing the display, 00E0 (spec/44_display.md R160): the instruction completes with one write of the display that raises
redraw, so one lemma about such an ending gives the grid written and the frame. -/

namespace Sys2Proof

/-- The word of R79 that group 0 matches first. -/
theorem decode0_cls : decode0 0x00E0 = .cls := if_pos rfl

namespace Machine

/-- An instruction that completes by putting a grid on the display shows that grid, raises redraw, and otherwise only advances
`PC`. -/
theorem complete_setDisplay_writes_only (grid : Display) (s : State) :
    ∃ t, complete (fun u => (u.setDisplay grid).setRedraw true) s = .next t ∧ t.display = grid ∧
      t = { s with display := t.display, redraw := true, pc := s.pc + 2 } := by
  refine ⟨(s.advance.setDisplay grid).setRedraw true, rfl, ?_, rfl⟩
  rw [State.setRedraw_display, State.setDisplay_display]

theorem exec_cls (s : State) : exec .cls s = complete (fun u => (u.setDisplay Display.clear).setRedraw true) s := rfl

end Machine

open Machine in
/-- Settles O29: the instruction is one write of the clear grid, whose every cell is off. -/
theorem clsClearsTheDisplay : Obligations.ClsClearsTheDisplay := by
  have hop : fieldOP 0x00E0 = 0 := by decide
  refine ⟨(decode_of_fieldOP_0 hop).trans decode0_cls, fun s => ?_⟩
  obtain ⟨t, hnext, hgrid, hframe⟩ := complete_setDisplay_writes_only Display.clear s
  have hoff : ∀ x y, Display.cell t.display x y = false := fun x y => by rw [hgrid, Display.cell_clear]
  exact ⟨t, (exec_cls s).trans hnext, hoff, hframe⟩

end Sys2Proof

/-! Decoding and encoding are inverse to each other (spec/30_encoding.md R82). The top nibble picks the group's decoder (R74); a word is
the encoding of its own fields, and a code of groups 8, E and F that a row takes is the row's code. -/

namespace Sys2Proof

/-! ### The decoder of the groups of one row (R74) -/

theorem decode_of_fieldOP_1 {w : Word} (h : fieldOP w = 1) : decode w = .jp (fieldNNN w) := by
  unfold decode
  rw [h]
  rfl

theorem decode_of_fieldOP_2 {w : Word} (h : fieldOP w = 2) : decode w = .call (fieldNNN w) := by
  unfold decode
  rw [h]
  rfl

theorem decode_of_fieldOP_3 {w : Word} (h : fieldOP w = 3) : decode w = .seImm (fieldX w) (fieldNN w) := by
  unfold decode
  rw [h]
  rfl

theorem decode_of_fieldOP_4 {w : Word} (h : fieldOP w = 4) : decode w = .sneImm (fieldX w) (fieldNN w) := by
  unfold decode
  rw [h]
  rfl

theorem decode_of_fieldOP_5 {w : Word} (h : fieldOP w = 5) : decode w = .seReg (fieldX w) (fieldY w) (fieldN w) := by
  unfold decode
  rw [h]
  rfl

theorem decode_of_fieldOP_9 {w : Word} (h : fieldOP w = 9) : decode w = .sneReg (fieldX w) (fieldY w) (fieldN w) := by
  unfold decode
  rw [h]
  rfl

theorem decode_of_fieldOP_B {w : Word} (h : fieldOP w = 0xB) : decode w = .jpV0 (fieldNNN w) := by
  unfold decode
  rw [h]
  rfl

theorem decode_of_fieldOP_C {w : Word} (h : fieldOP w = 0xC) : decode w = .rnd (fieldX w) (fieldNN w) := by
  unfold decode
  rw [h]
  rfl

theorem decode_of_fieldOP_D {w : Word} (h : fieldOP w = 0xD) : decode w = .drw (fieldX w) (fieldY w) (fieldN w) := by
  unfold decode
  rw [h]
  rfl

/-! ### Decoding a word laid out in one of the formats of R72 -/

theorem decode_encXYN_8 (x y : Reg) (n : Nibble) : decode (encXYN 0x8 x y n) = decode8 x y n := by
  rw [decode_of_fieldOP_8 (fieldOP_encXYN _ _ _ _), fieldX_encXYN, fieldY_encXYN, fieldN_encXYN]

theorem decode_encXNN_E (x : Reg) (nn : Byte) : decode (encXNN 0xE x nn) = decodeE x nn := by
  rw [decode_of_fieldOP_E (fieldOP_encXNN _ _ _), fieldX_encXNN, fieldNN_encXNN]

theorem decode_encXNN_F (x : Reg) (nn : Byte) : decode (encXNN 0xF x nn) = decodeF x nn := by
  rw [decode_of_fieldOP_F (fieldOP_encXNN _ _ _), fieldX_encXNN, fieldNN_encXNN]

/-- The twelve low bits of a word of group 0 tell it from the two words that group 0 matches first. -/
theorem decode_encNNN_0 {nnn : Addr12} (hcls : nnn ≠ 0x0E0) (hret : nnn ≠ 0x0EE) : decode (encNNN 0x0 nnn) = .sys nnn := by
  have hne : ∀ k : Addr12, nnn ≠ k → encNNN 0x0 nnn ≠ encNNN 0x0 k := fun k hk he =>
    hk (by rw [← fieldNNN_encNNN 0x0 nnn, he, fieldNNN_encNNN])
  rw [decode_of_fieldOP_0 (fieldOP_encNNN _ _), decode0_of_ne (hne 0x0E0 hcls) (hne 0x0EE hret), fieldNNN_encNNN]

/-- Settles O5: each format gives its fields back, and a row's code picks the row in its group. -/
theorem decodeUndoesEncode : Obligations.DecodeUndoesEncode := by
  intro i hwf
  cases i with
  | cls => rfl
  | ret => rfl
  | sys nnn =>
    simp only [Instr.wf, Bool.and_eq_true, bne_iff_ne] at hwf
    exact decode_encNNN_0 hwf.1 hwf.2
  | jp nnn => rw [encode, decode_of_fieldOP_1 (fieldOP_encNNN _ _), fieldNNN_encNNN]
  | call nnn => rw [encode, decode_of_fieldOP_2 (fieldOP_encNNN _ _), fieldNNN_encNNN]
  | ldI nnn => rw [encode, decode_of_fieldOP_A (fieldOP_encNNN _ _), fieldNNN_encNNN]
  | jpV0 nnn => rw [encode, decode_of_fieldOP_B (fieldOP_encNNN _ _), fieldNNN_encNNN]
  | seImm x nn => rw [encode, decode_of_fieldOP_3 (fieldOP_encXNN _ _ _), fieldX_encXNN, fieldNN_encXNN]
  | sneImm x nn => rw [encode, decode_of_fieldOP_4 (fieldOP_encXNN _ _ _), fieldX_encXNN, fieldNN_encXNN]
  | ldImm x nn => rw [encode, decode_of_fieldOP_6 (fieldOP_encXNN _ _ _), fieldX_encXNN, fieldNN_encXNN]
  | addImm x nn => rw [encode, decode_of_fieldOP_7 (fieldOP_encXNN _ _ _), fieldX_encXNN, fieldNN_encXNN]
  | rnd x nn => rw [encode, decode_of_fieldOP_C (fieldOP_encXNN _ _ _), fieldX_encXNN, fieldNN_encXNN]
  | seReg x y n =>
    rw [encode, decode_of_fieldOP_5 (fieldOP_encXYN _ _ _ _), fieldX_encXYN, fieldY_encXYN, fieldN_encXYN]
  | sneReg x y n =>
    rw [encode, decode_of_fieldOP_9 (fieldOP_encXYN _ _ _ _), fieldX_encXYN, fieldY_encXYN, fieldN_encXYN]
  | drw x y n =>
    rw [encode, decode_of_fieldOP_D (fieldOP_encXYN _ _ _ _), fieldX_encXYN, fieldY_encXYN, fieldN_encXYN]
  | ldReg x y => exact decode_encXYN_8 x y 0
  | orReg x y => exact decode_encXYN_8 x y 1
  | andReg x y => exact decode_encXYN_8 x y 2
  | xorReg x y => exact decode_encXYN_8 x y 3
  | addReg x y => exact decode_encXYN_8 x y 4
  | sub x y => exact decode_encXYN_8 x y 5
  | shr x y => exact decode_encXYN_8 x y 6
  | subn x y => exact decode_encXYN_8 x y 7
  | shl x y => exact decode_encXYN_8 x y 0xE
  | res8 x y n =>
    have hfree : n ∉ usedN8 := by simpa [Instr.wf] using hwf
    rw [encode, decode_encXYN_8, decode8_of_notMem_usedN8 x y hfree]
  | skp x => exact decode_encXNN_E x 0x9E
  | sknp x => exact decode_encXNN_E x 0xA1
  | resE x nn =>
    have hfree : nn ∉ usedNNE := by simpa [Instr.wf] using hwf
    rw [encode, decode_encXNN_E, decodeE_of_notMem_usedNNE x hfree]
  | ldVxDt x => exact decode_encXNN_F x 0x07
  | ldVxK x => exact decode_encXNN_F x 0x0A
  | ldDtVx x => exact decode_encXNN_F x 0x15
  | ldStVx x => exact decode_encXNN_F x 0x18
  | addI x => exact decode_encXNN_F x 0x1E
  | ldF x => exact decode_encXNN_F x 0x29
  | bcd x => exact decode_encXNN_F x 0x33
  | store x => exact decode_encXNN_F x 0x55
  | load x => exact decode_encXNN_F x 0x65
  | resF x nn =>
    have hfree : nn ∉ usedNNF := by simpa [Instr.wf] using hwf
    rw [encode, decode_encXNN_F, decodeF_of_notMem_usedNNF x hfree]

/-! ### A word is the encoding of its own fields -/

theorem encNNN_fields (w : Word) : encNNN (fieldOP w) (fieldNNN w) = w := word_eq_OP_NNN w

theorem encXNN_fields (w : Word) : encXNN (fieldOP w) (fieldX w) (fieldNN w) = w := by
  rw [encXNN_eq, fieldNNN_eq, encNNN_fields]

theorem encXYN_fields (w : Word) : encXYN (fieldOP w) (fieldX w) (fieldY w) (fieldN w) = w := by
  rw [encXYN_eq, fieldNN_eq, encXNN_fields]

/-! ### What a group's decoder answers is well-formed and stands for the fields it was read from -/

theorem encode_decode0 {w : Word} (hop : fieldOP w = 0) : encode (decode0 w) = w ∧ (decode0 w).wf = true := by
  have hw : encNNN 0 (fieldNNN w) = w := hop ▸ encNNN_fields w
  unfold decode0
  split_ifs with hcls hret
  · exact ⟨hcls.symm, rfl⟩
  · exact ⟨hret.symm, rfl⟩
  · have hE0 : fieldNNN w ≠ 0x0E0 := fun he => hcls (by rw [← hw, he]; rfl)
    have hEE : fieldNNN w ≠ 0x0EE := fun he => hret (by rw [← hw, he]; rfl)
    exact ⟨hw, by simpa [Instr.wf] using And.intro hE0 hEE⟩

theorem encode_decode8 (x y : Reg) (n : Nibble) :
    encode (decode8 x y n) = encXYN 0x8 x y n ∧ (decode8 x y n).wf = true := by
  by_cases hn : n ∈ usedN8
  · simp only [usedN8, List.mem_cons, List.not_mem_nil, or_false] at hn
    rcases hn with rfl | rfl | rfl | rfl | rfl | rfl | rfl | rfl | rfl <;> exact ⟨rfl, rfl⟩
  · rw [decode8_of_notMem_usedN8 x y hn]
    exact ⟨rfl, by simpa [Instr.wf] using hn⟩

theorem encode_decodeE (x : Reg) (nn : Byte) : encode (decodeE x nn) = encXNN 0xE x nn ∧ (decodeE x nn).wf = true := by
  by_cases hnn : nn ∈ usedNNE
  · simp only [usedNNE, List.mem_cons, List.not_mem_nil, or_false] at hnn
    rcases hnn with rfl | rfl <;> exact ⟨rfl, rfl⟩
  · rw [decodeE_of_notMem_usedNNE x hnn]
    exact ⟨rfl, by simpa [Instr.wf] using hnn⟩

theorem encode_decodeF (x : Reg) (nn : Byte) : encode (decodeF x nn) = encXNN 0xF x nn ∧ (decodeF x nn).wf = true := by
  by_cases hnn : nn ∈ usedNNF
  · simp only [usedNNF, List.mem_cons, List.not_mem_nil, or_false] at hnn
    rcases hnn with rfl | rfl | rfl | rfl | rfl | rfl | rfl | rfl | rfl <;> exact ⟨rfl, rfl⟩
  · rw [decodeF_of_notMem_usedNNF x hnn]
    exact ⟨rfl, by simpa [Instr.wf] using hnn⟩

/-- The sixteen groups of R74. -/
theorem opcode_group_cases : ∀ op : BitVec 4,
    op = 0 ∨ op = 1 ∨ op = 2 ∨ op = 3 ∨ op = 4 ∨ op = 5 ∨ op = 6 ∨ op = 7 ∨ op = 8 ∨ op = 9 ∨ op = 0xA ∨ op = 0xB ∨
    op = 0xC ∨ op = 0xD ∨ op = 0xE ∨ op = 0xF := by
  decide

/-- Settles O6, group by group: the group's decoder keeps every field of the word, and the encoder lays them out again. -/
theorem encodeUndoesDecode : Obligations.EncodeUndoesDecode := by
  intro w
  have hNNN := encNNN_fields w
  have hXNN := encXNN_fields w
  have hXYN := encXYN_fields w
  rcases opcode_group_cases (fieldOP w) with h | h | h | h | h | h | h | h | h | h | h | h | h | h | h | h <;>
    rw [h] at hNNN hXNN hXYN
  · rw [decode_of_fieldOP_0 h]; exact encode_decode0 h
  · rw [decode_of_fieldOP_1 h]; exact ⟨hNNN, rfl⟩
  · rw [decode_of_fieldOP_2 h]; exact ⟨hNNN, rfl⟩
  · rw [decode_of_fieldOP_3 h]; exact ⟨hXNN, rfl⟩
  · rw [decode_of_fieldOP_4 h]; exact ⟨hXNN, rfl⟩
  · rw [decode_of_fieldOP_5 h]; exact ⟨hXYN, rfl⟩
  · rw [decode_of_fieldOP_6 h]; exact ⟨hXNN, rfl⟩
  · rw [decode_of_fieldOP_7 h]; exact ⟨hXNN, rfl⟩
  · rw [decode_of_fieldOP_8 h]; exact (encode_decode8 _ _ _).imp_left (·.trans hXYN)
  · rw [decode_of_fieldOP_9 h]; exact ⟨hXYN, rfl⟩
  · rw [decode_of_fieldOP_A h]; exact ⟨hNNN, rfl⟩
  · rw [decode_of_fieldOP_B h]; exact ⟨hNNN, rfl⟩
  · rw [decode_of_fieldOP_C h]; exact ⟨hXNN, rfl⟩
  · rw [decode_of_fieldOP_D h]; exact ⟨hXYN, rfl⟩
  · rw [decode_of_fieldOP_E h]; exact (encode_decodeE _ _).imp_left (·.trans hXNN)
  · rw [decode_of_fieldOP_F h]; exact (encode_decodeF _ _).imp_left (·.trans hXNN)

/-! ### Rows of the opcode table (R75) -/

theorem selects_iff (r : OpRow) (w : Word) : r.selects w = true ↔ w &&& r.mask = r.pattern := beq_iff_eq

/-- A row examines no bit outside a mask that covers the row's own. -/
theorem selects_and_cover {r : OpRow} {cover : Word} (h : r.mask &&& cover = r.mask) (w : Word) :
    r.selects (w &&& cover) = r.selects w := by
  have hmask : w &&& cover &&& r.mask = w &&& r.mask := by rw [BitVec.and_assoc, BitVec.and_comm cover, h]
  rw [OpRow.selects, OpRow.selects, hmask]

/-- The rows of a group: those whose match has the group's top nibble. -/
def groupRows (op : BitVec 4) : List OpRow := opcodeTable.filter fun r => fieldOP r.pattern == op

/-- Every mask keeps the top nibble, so a word selects rows of its own group only. -/
theorem fieldOP_of_selects {r : OpRow} (hr : r ∈ opcodeTable) {w : Word} (h : r.selects w = true) : fieldOP r.pattern = fieldOP w := by
  have hmask : ∀ r ∈ opcodeTable, fieldOP r.mask = 0xF := by decide
  have hpattern : w &&& r.mask = r.pattern := (selects_iff r w).mp h
  have hand : fieldOP (w &&& r.mask) = fieldOP w &&& fieldOP r.mask := BitVec.extractLsb'_and
  rw [← hpattern, hand, hmask r hr]
  exact BitVec.and_allOnes

theorem selectRow_eq_find_groupRows (w : Word) : selectRow w = (groupRows (fieldOP w)).find? (·.selects w) := by
  rw [groupRows, List.find?_filter, selectRow]
  refine List.find?_congr fun r hr => ?_
  by_cases hs : r.selects w = true
  · simp [hs, fieldOP_of_selects hr hs]
  · simp [hs]

/-- A word selects its row by the bits that the group's masks examine. -/
theorem selectRow_eq_find_cover {op : BitVec 4} {cover w : Word} (hop : fieldOP w = op)
    (hcover : ∀ r ∈ groupRows op, r.mask &&& cover = r.mask) :
    selectRow w = (groupRows op).find? (·.selects (w &&& cover)) := by
  rw [selectRow_eq_find_groupRows, hop]
  exact List.find?_congr fun r hr => (selects_and_cover (hcover r hr) w).symm

/-- In a group of one row, matched on the top nibble alone, every word selects that row. -/
theorem selectRow_of_single {op : BitVec 4} {w : Word} {name : String} {prio : Nat} (hop : fieldOP w = op)
    (hrows : groupRows op = [⟨name, 0xF000, encNNN op 0, prio⟩]) : (selectRow w).map (·.name) = some name := by
  have hw : w &&& 0xF000 = encNNN op 0 := by rw [← encNNN_fields w, and_F000, hop]
  rw [selectRow_eq_find_groupRows, hop, hrows, List.find?_cons_of_pos]
  · rfl
  · exact (selects_iff _ w).mpr hw

theorem selectRow_group0 {w : Word} (hop : fieldOP w = 0) : (selectRow w).map (·.name) = some (decode0 w).mnemonic := by
  by_cases hcls : w = 0x00E0
  · subst hcls; decide
  by_cases hret : w = 0x00EE
  · subst hret; decide
  have hall : w &&& 0xFFFF = w := BitVec.and_allOnes
  have hnnn : w &&& 0xF000 = 0x0000 := by rw [← encNNN_fields w, and_F000, hop]; rfl
  have hrows : groupRows 0 = [⟨"00E0", 0xFFFF, 0x00E0, 0⟩, ⟨"00EE", 0xFFFF, 0x00EE, 0⟩, ⟨"0NNN", 0xF000, 0x0000, 2⟩] := by decide
  rw [selectRow_eq_find_groupRows, hop, hrows, decode0_of_ne hcls hret, List.find?_cons_of_neg, List.find?_cons_of_neg,
    List.find?_cons_of_pos]
  · rfl
  · exact (selects_iff _ w).mpr hnnn
  · exact fun h => hret (hall.symm.trans ((selects_iff _ w).mp h))
  · exact fun h => hcls (hall.symm.trans ((selects_iff _ w).mp h))

/-- Which row of group 8 decodes does not depend on the registers. -/
theorem decode8_mnemonic (x y : Reg) (n : Nibble) : (decode8 x y n).mnemonic = (decode8 0 0 n).mnemonic := by
  by_cases hn : n ∈ usedN8
  · simp only [usedN8, List.mem_cons, List.not_mem_nil, or_false] at hn
    rcases hn with rfl | rfl | rfl | rfl | rfl | rfl | rfl | rfl | rfl <;> rfl
  · rw [decode8_of_notMem_usedN8 x y hn, decode8_of_notMem_usedN8 0 0 hn]
    rfl

theorem decodeE_mnemonic (x : Reg) (nn : Byte) : (decodeE x nn).mnemonic = (decodeE 0 nn).mnemonic := by
  by_cases hnn : nn ∈ usedNNE
  · simp only [usedNNE, List.mem_cons, List.not_mem_nil, or_false] at hnn
    rcases hnn with rfl | rfl <;> rfl
  · rw [decodeE_of_notMem_usedNNE x hnn, decodeE_of_notMem_usedNNE 0 hnn]
    rfl

theorem decodeF_mnemonic (x : Reg) (nn : Byte) : (decodeF x nn).mnemonic = (decodeF 0 nn).mnemonic := by
  by_cases hnn : nn ∈ usedNNF
  · simp only [usedNNF, List.mem_cons, List.not_mem_nil, or_false] at hnn
    rcases hnn with rfl | rfl | rfl | rfl | rfl | rfl | rfl | rfl | rfl <;> rfl
  · rw [decodeF_of_notMem_usedNNF x hnn, decodeF_of_notMem_usedNNF 0 hnn]
    rfl

theorem selectRow_group8 {w : Word} (hop : fieldOP w = 8) :
    (selectRow w).map (·.name) = some (decode8 (fieldX w) (fieldY w) (fieldN w)).mnemonic := by
  have hcodes : ∀ n : Nibble,
      ((groupRows 8).find? (·.selects (encXYN 8 0 0 n &&& 0xF00F))).map (·.name) = some (decode8 0 0 n).mnemonic := by decide
  have hw : w &&& 0xF00F = encXYN 8 0 0 (fieldN w) &&& 0xF00F := by
    rw [← encXYN_fields w, and_F00F, and_F00F, hop, fieldN_encXYN]
  rw [selectRow_eq_find_cover hop (by decide : ∀ r ∈ groupRows 8, r.mask &&& 0xF00F = r.mask), hw, hcodes, ← decode8_mnemonic]

/-- In a group matched on `NN`, a decoder that answers the selected row's mnemonic for the words with `X = 0` does so for every word. -/
theorem selectRow_of_codes {op : BitVec 4} {w : Word} {mnemonicOf : Byte → String} (hop : fieldOP w = op)
    (hcover : ∀ r ∈ groupRows op, r.mask &&& 0xF0FF = r.mask)
    (hcodes : ∀ nn : Byte, ((groupRows op).find? (·.selects (encXNN op 0 nn &&& 0xF0FF))).map (·.name) = some (mnemonicOf nn)) :
    (selectRow w).map (·.name) = some (mnemonicOf (fieldNN w)) := by
  have hw : w &&& 0xF0FF = encXNN op 0 (fieldNN w) &&& 0xF0FF := by
    rw [← encXNN_fields w, and_F0FF, and_F0FF, hop, fieldNN_encXNN]
  rw [selectRow_eq_find_cover hop hcover, hw, hcodes]

theorem selectRow_groupE {w : Word} (hop : fieldOP w = 0xE) :
    (selectRow w).map (·.name) = some (decodeE (fieldX w) (fieldNN w)).mnemonic := by
  rw [decodeE_mnemonic]
  exact selectRow_of_codes (mnemonicOf := fun nn => (decodeE 0 nn).mnemonic) hop (by decide) (by decide)

theorem selectRow_groupF {w : Word} (hop : fieldOP w = 0xF) :
    (selectRow w).map (·.name) = some (decodeF (fieldX w) (fieldNN w)).mnemonic := by
  rw [decodeF_mnemonic]
  exact selectRow_of_codes (mnemonicOf := fun nn => (decodeF 0 nn).mnemonic) hop (by decide) (by decide)

/-- Settles O7: a word selects rows of its own group only; there the decoder compares the bits that the rows' masks examine. -/
theorem decodeFollowsTheOpcodeTable : Obligations.DecodeFollowsTheOpcodeTable := by
  intro w
  rcases opcode_group_cases (fieldOP w) with h | h | h | h | h | h | h | h | h | h | h | h | h | h | h | h
  · rw [decode_of_fieldOP_0 h, selectRow_group0 h]
  · rw [decode_of_fieldOP_1 h]; exact selectRow_of_single h rfl
  · rw [decode_of_fieldOP_2 h]; exact selectRow_of_single h rfl
  · rw [decode_of_fieldOP_3 h]; exact selectRow_of_single h rfl
  · rw [decode_of_fieldOP_4 h]; exact selectRow_of_single h rfl
  · rw [decode_of_fieldOP_5 h]; exact selectRow_of_single h rfl
  · rw [decode_of_fieldOP_6 h]; exact selectRow_of_single h rfl
  · rw [decode_of_fieldOP_7 h]; exact selectRow_of_single h rfl
  · rw [decode_of_fieldOP_8 h, selectRow_group8 h]
  · rw [decode_of_fieldOP_9 h]; exact selectRow_of_single h rfl
  · rw [decode_of_fieldOP_A h]; exact selectRow_of_single h rfl
  · rw [decode_of_fieldOP_B h]; exact selectRow_of_single h rfl
  · rw [decode_of_fieldOP_C h]; exact selectRow_of_single h rfl
  · rw [decode_of_fieldOP_D h]; exact selectRow_of_single h rfl
  · rw [decode_of_fieldOP_E h, selectRow_groupE h]
  · rw [decode_of_fieldOP_F h, selectRow_groupF h]

/-- Settles O3: each word is decoded by evaluation. -/
theorem wordsOfTheSpecDecode : Obligations.WordsOfTheSpecDecode := by
  refine ⟨?_, ?_, ?_, ?_, ?_, ?_, ?_, ?_, ?_, ?_, ?_, ?_⟩ <;> decide

/-! ### Instructions as bytes (R54, R70) -/

theorem wordOfBytes_toNat (hi lo : Byte) : (wordOfBytes hi lo).toNat = hi.toNat * 256 + lo.toNat := toNat_append_eq_mul_add hi lo

/-- Settles O8: two bytes are one word, and a well-formed instruction's word is split and put together again before O5 applies. -/
theorem bytesDecodeBigEndian : Obligations.BytesDecodeBigEndian := by
  refine ⟨fun hi lo rest => ⟨wordOfBytes hi lo, wordOfBytes_toNat hi lo, rfl⟩, fun _ => rfl, rfl, fun i rest hwf => ?_⟩
  have hword : decode (wordOfBytes (hiByte (encode i)) (loByte (encode i))) = i := by
    rw [Machine.wordOfBytes_split, decodeUndoesEncode i hwf]
  exact congrArg (fun j => Except.ok (j, rest)) hword

end Sys2Proof

/-! Jumps, calls and conditional skips (spec/41_flow_and_skips.md R100 to R107, spec/45_keypad_and_timers.md R170, R171): which word is
which instruction, and where each leaves `PC` and the stack. -/

namespace Sys2Proof

/-! ### The rows of groups 8, E and F by their code (R74) -/

theorem decode_of_code_8 {w : Word} {n : Nibble} (hop : fieldOP w = 8) (hn : fieldN w = n) :
    decode w = decode8 (fieldX w) (fieldY w) n := by rw [decode_of_fieldOP_8 hop, hn]

theorem decode_of_code_E {w : Word} {nn : Byte} (hop : fieldOP w = 0xE) (hnn : fieldNN w = nn) :
    decode w = decodeE (fieldX w) nn := by rw [decode_of_fieldOP_E hop, hnn]

theorem decode_of_code_F {w : Word} {nn : Byte} (hop : fieldOP w = 0xF) (hnn : fieldNN w = nn) :
    decode w = decodeF (fieldX w) nn := by rw [decode_of_fieldOP_F hop, hnn]

namespace Machine

/-- Writing one entry of a vector, read at any index. -/
theorem vector_get_set {α : Type} {n : Nat} (v : Vector α n) (i j : Fin n) (a : α) :
    (v.set i.val a i.isLt).get j = if j = i then a else v.get j := by
  rw [Vector.get_eq_getElem, Vector.get_eq_getElem, Vector.getElem_set]
  by_cases h : j = i
  · rw [if_pos (congrArg Fin.val h.symm), if_pos h]
  · rw [if_neg (fun e => h (Fin.ext e.symm)), if_neg h]

end Machine

open Machine

/-- Settles O10, by whether an entry is on the stack. -/
theorem retPopsOrUnderflows : Obligations.RetPopsOrUnderflows := by
  refine ⟨by decide, fun s => ⟨fun h => ?_, fun k hk => ?_⟩⟩
  · rw [exec_ret, dif_neg (by omega)]
  · have hpos : 0 < s.sp.val := by omega
    have htop : (⟨s.sp.val - 1, by omega⟩ : Fin 12) = k := Fin.ext (by show s.sp.val - 1 = k.val; omega)
    rw [exec_ret, dif_pos hpos]
    exact ⟨_, rfl, congrArg Fin.val htop, congrArg s.stack.get htop, rfl⟩

/-- Settles O11: the target is the address zero-extended. -/
theorem jpSetsPc : Obligations.JpSetsPc :=
  ⟨fun _ hop => decode_of_fieldOP_1 hop, fun nnn _ => ⟨_, rfl, addrOf_toNat nnn, rfl⟩⟩

/-- Settles O12, by whether the stack is full. -/
theorem callPushesOrOverflows : Obligations.CallPushesOrOverflows := by
  refine ⟨fun w hop => decode_of_fieldOP_2 hop, fun nnn s => ⟨fun h => ?_, fun k hk => ?_⟩⟩
  · rw [exec_call, dif_neg (by omega)]
  · have hlt : s.sp.val < 12 := by omega
    have hplace : (⟨s.sp.val, hlt⟩ : Fin 12) = k := Fin.ext hk
    have hread : ∀ j, (s.stack.set s.sp.val (s.pc + 2) hlt).get j = if j = k then s.pc + 2 else s.stack.get j := fun j => by
      rw [← hplace]; exact vector_get_set s.stack ⟨s.sp.val, hlt⟩ j (s.pc + 2)
    rw [exec_call, dif_pos hlt]
    exact ⟨_, rfl, congrArg (· + 1) hk, (hread k).trans (if_pos rfl), fun j hj => (hread j).trans (if_neg hj),
      addrOf_toNat nnn, rfl⟩

namespace Machine

/-- The largest sum of BNNN is 0x10FE, so it does not wrap. -/
theorem zext_add_addrOf_toNat (b : Byte) (nnn : Addr12) : (zext b + addrOf nnn).toNat = b.toNat + nnn.toNat := by
  rw [BitVec.toNat_add, zext_toNat, addrOf_toNat]
  omega

theorem exec_jp (nnn : Addr12) (s : State) : exec (.jp nnn) s = .next { s with pc := addrOf nnn } := rfl

theorem exec_jpV0 (nnn : Addr12) (s : State) :
    exec (.jpV0 nnn) s = .next { s with pc := zext (s.reg 0) + addrOf nnn } := rfl

/-! ### The six skips, each under its own condition -/

theorem exec_seImm_iff (x : Reg) (nn : Byte) (s : State) :
    exec (.seImm x nn) s = .next { s with pc := s.pc + (if s.reg x = nn then 4 else 2) } := by
  rw [exec_seImm]; simp only [beq_iff_eq]

theorem exec_sneImm_iff (x : Reg) (nn : Byte) (s : State) :
    exec (.sneImm x nn) s = .next { s with pc := s.pc + (if s.reg x = nn then 2 else 4) } := by
  rw [exec_sneImm]; simp only [bne_iff_ne, ne_eq, ite_not]

theorem exec_seReg_iff (x y : Reg) (n : Nibble) (s : State) :
    exec (.seReg x y n) s = .next { s with pc := s.pc + (if s.reg x = s.reg y then 4 else 2) } := by
  rw [exec_seReg]; simp only [beq_iff_eq]

theorem exec_sneReg_iff (x y : Reg) (n : Nibble) (s : State) :
    exec (.sneReg x y n) s = .next { s with pc := s.pc + (if s.reg x = s.reg y then 2 else 4) } := by
  rw [exec_sneReg]; simp only [bne_iff_ne, ne_eq, ite_not]

theorem exec_skp_iff (x : Reg) (s : State) :
    exec (.skp x) s = .next { s with pc := s.pc + (if s.keys.get (lowNibble (s.reg x)) = true then 4 else 2) } := exec_skp x s

theorem exec_sknp_iff (x : Reg) (s : State) :
    exec (.sknp x) s = .next { s with pc := s.pc + (if s.keys.get (lowNibble (s.reg x)) = true then 2 else 4) } := by
  rw [exec_sknp]; simp only [State.key, Bool.not_eq_true', ← Bool.not_eq_true, ite_not]

end Machine

/-- Settles O13: the sum of a byte and twelve bits fits the register. -/
theorem jpV0AddsRegisterZero : Obligations.JpV0AddsRegisterZero :=
  ⟨fun _ hop => decode_of_fieldOP_B hop, fun nnn s => ⟨_, exec_jpV0 nnn s, zext_add_addrOf_toNat (s.reg 0) nnn, rfl⟩⟩

/-- Settles O14: both are skips, the second under the opposite condition. -/
theorem immediateSkips : Obligations.ImmediateSkips :=
  ⟨fun _ hop => decode_of_fieldOP_3 hop, fun _ hop => decode_of_fieldOP_4 hop,
    fun s x nn => ⟨exec_seImm_iff x nn s, exec_sneImm_iff x nn s⟩⟩

/-- Settles O15: both are skips on two registers, and neither reads the low nibble. -/
theorem registerSkips : Obligations.RegisterSkips :=
  ⟨fun _ hop => decode_of_fieldOP_5 hop, fun _ hop => decode_of_fieldOP_9 hop,
    fun s x y n => ⟨exec_seReg_iff x y n s, exec_sneReg_iff x y n s⟩⟩

/-- Settles O16: the key named by the low nibble is the one of that index. -/
theorem keySkips : Obligations.KeySkips := by
  refine ⟨fun w hop hnn => decode_of_code_E hop hnn, fun w hop hnn => decode_of_code_E hop hnn, fun s x k hk => ?_⟩
  obtain rfl : k = lowNibble (s.reg x) := Fin.ext hk
  exact ⟨exec_skp_iff x s, exec_sknp_iff x s⟩

/-- Settles O34: the entry the call stored is the one the return pops, and only that entry of the array changed. -/
theorem returnUndoesCall : Obligations.ReturnUndoesCall := by
  intro s nnn hlt
  obtain ⟨t, hcall, hsp, htop, hother, _, hframe⟩ := (callPushesOrOverflows.2 nnn s).2 ⟨s.sp.val, hlt⟩ rfl
  obtain ⟨u, hret, husp, hupc, huframe⟩ := (retPopsOrUnderflows.2 t).2 ⟨s.sp.val, hlt⟩ hsp
  have hstack : u.stack = t.stack := by rw [huframe]
  have hsame : u.sp = s.sp := Fin.ext husp
  refine ⟨t, u, hcall, hret, hupc.trans htop, hsame, fun k hk => ?_, ?_⟩
  · rw [hstack]
    exact hother k fun he => absurd hk (by rw [he]; exact lt_irrefl _)
  · rw [huframe, hframe]
    simp only [hsame]

end Sys2Proof

/-! Arithmetic, logic, shifts and the random byte (spec/42_load_and_alu.md R123 to R131). -/

namespace Sys2Proof

namespace Machine

theorem exec_orReg (x y : Reg) (s : State) :
    exec (.orReg x y) s = complete (fun u => u.setReg x (u.reg x ||| u.reg y)) s := rfl
theorem exec_andReg (x y : Reg) (s : State) :
    exec (.andReg x y) s = complete (fun u => u.setReg x (u.reg x &&& u.reg y)) s := rfl
theorem exec_xorReg (x y : Reg) (s : State) :
    exec (.xorReg x y) s = complete (fun u => u.setReg x (u.reg x ^^^ u.reg y)) s := rfl

end Machine

open Machine

/-- Settles O18: each of the three is one register write, of a byte computed bit by bit. -/
theorem logicBitByBit : Obligations.LogicBitByBit := by
  refine ⟨fun w hop hn => decode_of_code_8 hop hn, fun w hop hn => decode_of_code_8 hop hn,
    fun w hop hn => decode_of_code_8 hop hn, fun s x y => ⟨?_, ?_, ?_⟩⟩
  · obtain ⟨t, hnext, hx, hframe⟩ := complete_setReg_writes_only (fun u => u.reg x ||| u.reg y) x s
    exact ⟨t, (exec_orReg x y s).trans hnext, fun b => by rw [hx]; exact BitVec.getLsbD_or, hframe⟩
  · obtain ⟨t, hnext, hx, hframe⟩ := complete_setReg_writes_only (fun u => u.reg x &&& u.reg y) x s
    exact ⟨t, (exec_andReg x y s).trans hnext, fun b => by rw [hx]; exact BitVec.getLsbD_and, hframe⟩
  · obtain ⟨t, hnext, hx, hframe⟩ := complete_setReg_writes_only (fun u => u.reg x ^^^ u.reg y) x s
    exact ⟨t, (exec_xorReg x y s).trans hnext, fun b => by rw [hx]; exact BitVec.getLsbD_xor, hframe⟩

/-! ### Flag first, then the result (R119) -/

namespace Machine

theorem flagByte_toNat (b : Bool) : (flagByte b).toNat = if b = true then 1 else 0 := by cases b <;> rfl

theorem carryFlag_toNat (p q : Byte) : (carryFlag p q).toNat = if 255 < p.toNat + q.toNat then 1 else 0 := by
  simp only [carryFlag, flagByte_toNat, decide_eq_true_eq]

theorem noBorrowFlag_toNat (p q : Byte) : (noBorrowFlag p q).toNat = if q.toNat ≤ p.toNat then 1 else 0 := by
  simp only [noBorrowFlag, flagByte_toNat, decide_eq_true_eq]

theorem shiftedOutRight_toNat (p : Byte) : (shiftedOutRight p).toNat = p.toNat % 2 := by
  rw [shiftedOutRight, flagByte_toNat, BitVec.getLsbD, Nat.testBit_zero]
  have := Nat.mod_two_eq_zero_or_one p.toNat
  split_ifs with h <;> simp only [decide_eq_true_eq] at h <;> omega

theorem shiftedOutLeft_toNat (p : Byte) : (shiftedOutLeft p).toNat = p.toNat / 128 := by
  have hp := p.isLt
  rw [shiftedOutLeft, flagByte_toNat, BitVec.getLsbD, Nat.testBit_eq_decide_div_mod_eq]
  split_ifs with h <;> simp only [decide_eq_true_eq] at h <;> omega

/-- An instruction that writes a flag computed from `V[X]` and `V[Y]`, then a result from the two re-read: a register that is `F` reads
as the flag. Everything else but `PC` is as before. -/
theorem complete_flagThenResult (flag op : Byte → Byte → Byte) (x y : Reg) (s : State) :
    ∃ t, complete (flagThenResult (fun u => flag (u.reg x) (u.reg y)) x (fun u => op (u.reg x) (u.reg y))) s = .next t ∧
      t = { s with v := t.v, pc := s.pc + 2 } ∧
      (∀ r, r ≠ x → r ≠ 15 → t.reg r = s.reg r) ∧
      (x ≠ 15 → t.reg 15 = flag (s.reg x) (s.reg y)) ∧
      t.reg x = op (if x = 15 then flag (s.reg x) (s.reg y) else s.reg x) (if y = 15 then flag (s.reg x) (s.reg y) else s.reg y) := by
  refine ⟨_, rfl, rfl, fun r hrx hrF => ?_, fun hx => ?_, ?_⟩
  · rw [flagThenResult_reg, if_neg hrx, if_neg hrF, State.reg_advance]
  · rw [flagThenResult_reg, if_neg hx.symm, if_pos rfl, State.reg_advance, State.reg_advance]
  · rw [flagThenResult_reg, if_pos rfl, State.reg_setReg, State.reg_setReg]
    rfl

theorem exec_addReg (x y : Reg) (s : State) :
    exec (.addReg x y) s =
      complete (flagThenResult (fun u => carryFlag (u.reg x) (u.reg y)) x (fun u => u.reg x + u.reg y)) s := rfl
theorem exec_sub (x y : Reg) (s : State) :
    exec (.sub x y) s =
      complete (flagThenResult (fun u => noBorrowFlag (u.reg x) (u.reg y)) x (fun u => u.reg x - u.reg y)) s := rfl
theorem exec_subn (x y : Reg) (s : State) :
    exec (.subn x y) s =
      complete (flagThenResult (fun u => noBorrowFlag (u.reg y) (u.reg x)) x (fun u => u.reg y - u.reg x)) s := rfl
theorem exec_shr (x y : Reg) (s : State) :
    exec (.shr x y) s = complete (flagThenResult (fun u => shiftedOutRight (u.reg x)) x (fun u => u.reg x >>> 1)) s := rfl
theorem exec_shl (x y : Reg) (s : State) :
    exec (.shl x y) s = complete (flagThenResult (fun u => shiftedOutLeft (u.reg x)) x (fun u => u.reg x <<< 1)) s := rfl

theorem byte_sub_toNat (p q : Byte) : (p - q).toNat = (256 + p.toNat - q.toNat) % 256 := by
  have := q.isLt
  rw [BitVec.toNat_sub]
  omega

end Machine

/-- Settles O19: the result is the sum of `V[X]` and `V[Y]`, with the flag in place of a register that is `F`. -/
theorem addWithCarry : Obligations.AddWithCarry := by
  refine ⟨fun w hop hn => decode_of_code_8 hop hn, fun s x y => ?_⟩
  obtain ⟨t, hnext, hframe, hother, hF, hx⟩ := complete_flagThenResult carryFlag (· + ·) x y s
  have hsum : (t.reg x).toNat = _ := (congrArg BitVec.toNat hx).trans (BitVec.toNat_add _ _)
  refine ⟨t, (exec_addReg x y s).trans hnext, hframe, hother, fun h => ?_, fun h h' => ?_, fun h h' => ?_, fun h h' => ?_,
    fun h h' => ?_⟩
  · rw [hF h, carryFlag_toNat]
  · rw [hsum, if_neg h, if_neg h']
  · rw [hsum, if_neg h, if_pos h', carryFlag_toNat]
  · rw [hsum, if_pos h, if_neg h', carryFlag_toNat]
  · rw [hsum, if_pos h, if_pos h', carryFlag_toNat]
    split_ifs <;> rfl

/-- Settles O20: the result is the difference of `V[X]` and `V[Y]`, with the flag in place of a register that is `F`. -/
theorem subtractWithNoBorrow : Obligations.SubtractWithNoBorrow := by
  refine ⟨fun w hop hn => decode_of_code_8 hop hn, fun s x y => ?_⟩
  obtain ⟨t, hnext, hframe, hother, hF, hx⟩ := complete_flagThenResult noBorrowFlag (· - ·) x y s
  have hdiff : (t.reg x).toNat = _ := (congrArg BitVec.toNat hx).trans (byte_sub_toNat _ _)
  refine ⟨t, (exec_sub x y s).trans hnext, hframe, hother, fun h => ?_, fun h h' => ?_, fun h h' => ?_, fun h h' => ?_,
    fun h h' => ?_⟩
  · rw [hF h, noBorrowFlag_toNat]
  · rw [hdiff, if_neg h, if_neg h']
  · rw [hdiff, if_neg h, if_pos h', noBorrowFlag_toNat]
  · rw [hdiff, if_pos h, if_neg h', noBorrowFlag_toNat]
  · rw [hdiff, if_pos h, if_pos h', Nat.add_sub_cancel]

/-- Settles O21: 8XY7 is 8XY5 with the operands of flag and difference in the other order. -/
theorem reverseSubtractWithNoBorrow : Obligations.ReverseSubtractWithNoBorrow := by
  refine ⟨fun w hop hn => decode_of_code_8 hop hn, fun s x y => ?_⟩
  obtain ⟨t, hnext, hframe, hother, hF, hx⟩ := complete_flagThenResult (fun p q => noBorrowFlag q p) (fun p q => q - p) x y s
  have hdiff : (t.reg x).toNat = _ := (congrArg BitVec.toNat hx).trans (byte_sub_toNat _ _)
  refine ⟨t, (exec_subn x y s).trans hnext, hframe, hother, fun h => ?_, fun h h' => ?_, fun h h' => ?_, fun h h' => ?_,
    fun h h' => ?_⟩
  · rw [hF h, noBorrowFlag_toNat]
  · rw [hdiff, if_neg h, if_neg h']
  · rw [hdiff, if_neg h, if_pos h', noBorrowFlag_toNat]
  · rw [hdiff, if_pos h, if_neg h', noBorrowFlag_toNat]
  · rw [hdiff, if_pos h, if_pos h', Nat.add_sub_cancel]

/-- Settles O22: with `X = F` the register re-read is the flag, so what is shifted is the bit shifted out. -/
theorem shiftsByOne : Obligations.ShiftsByOne := by
  refine ⟨fun w hop hn => decode_of_code_8 hop hn, fun w hop hn => decode_of_code_8 hop hn, fun s x y => ⟨?_, ?_⟩⟩
  · obtain ⟨t, hnext, hframe, hother, hF, hx⟩ := complete_flagThenResult (fun p _ => shiftedOutRight p) (fun p _ => p >>> 1) x y s
    have hhalf : (t.reg x).toNat = _ := (congrArg BitVec.toNat hx).trans (BitVec.toNat_ushiftRight _ _)
    rw [Nat.shiftRight_eq_div_pow] at hhalf
    refine ⟨t, (exec_shr x y s).trans hnext, hframe, hother, fun h => ⟨?_, ?_⟩, fun h => ?_⟩
    · rw [hF h, shiftedOutRight_toNat]
    · rw [hhalf, if_neg h, pow_one]
    · rw [if_pos h, shiftedOutRight_toNat, h] at hhalf
      omega
  · obtain ⟨t, hnext, hframe, hother, hF, hx⟩ := complete_flagThenResult (fun p _ => shiftedOutLeft p) (fun p _ => p <<< 1) x y s
    have hdouble : (t.reg x).toNat = _ := (congrArg BitVec.toNat hx).trans BitVec.toNat_shiftLeft
    rw [Nat.shiftLeft_eq, pow_one, Nat.mul_comm] at hdouble
    refine ⟨t, (exec_shl x y s).trans hnext, hframe, hother, fun h => ⟨?_, ?_⟩, fun h => ?_⟩
    · rw [hF h, shiftedOutLeft_toNat]
    · rw [hdouble, if_neg h]
    · have hp := (s.reg 15).isLt
      rw [if_pos h, shiftedOutLeft_toNat, h] at hdouble
      rw [hdouble, h]
      omega

/-! ### The random byte (R131) -/

namespace Machine

theorem nextRnd_cons {s : State} {b : Byte} {rest : List Byte} (h : s.rndIn = b :: rest) : nextRnd s = b := by
  unfold nextRnd
  rw [h]

theorem nextRnd_nil {s : State} (h : s.rndIn = []) : nextRnd s = Config.rnd s.draws := by
  unfold nextRnd
  rw [h]

/-- CXNN writes the next byte of the random source, masked, and uses that one draw. -/
theorem exec_rnd_writes_only (x : Reg) (nn : Byte) (s : State) :
    ∃ t, exec (.rnd x nn) s = .next t ∧ t.reg x = nextRnd s &&& nn ∧ (∀ r, r ≠ x → t.reg r = s.reg r) ∧
      t = { s with v := t.v, pc := s.pc + 2, rndIn := s.rndIn.tail, draws := s.draws + 1 } := by
  refine ⟨s.advance.afterRnd.setReg x (nextRnd s &&& nn), rfl, State.reg_setReg_self _ _ _, fun r hr => ?_, rfl⟩
  rw [State.reg_setReg, if_neg hr, State.reg_afterRnd, State.reg_advance]

end Machine

/-- Settles O23, by whether a byte has been presented. -/
theorem rndMasksOneDraw : Obligations.RndMasksOneDraw := by
  refine ⟨fun w hop => decode_of_fieldOP_C hop, fun s x nn => ⟨fun b rest hq => ?_, fun hq => ?_⟩⟩
  · obtain ⟨t, hnext, hx, hother, hframe⟩ := exec_rnd_writes_only x nn s
    rw [nextRnd_cons hq] at hx
    exact ⟨t, hnext, hx, hother, by rw [hq] at hframe; exact hframe⟩
  · obtain ⟨t, hnext, hx, hother, hframe⟩ := exec_rnd_writes_only x nn s
    rw [nextRnd_nil hq] at hx
    exact ⟨t, hnext, hx, hother, hframe.trans (by simp only [hq, List.tail_nil])⟩

end Sys2Proof

/-! The index register's sum and memory transfer (spec/43_index_and_memory.md R141, R143 to R145), keypad and timers
(spec/45_keypad_and_timers.md R172 to R175). -/

namespace Sys2Proof

open Machine

/-- Settles O25: one write of `I`, of a sum of two words, the second a byte zero-extended. -/
theorem indexAddWrapsAt65536 : Obligations.IndexAddWrapsAt65536 := by
  refine ⟨fun w hop hnn => decode_of_code_F hop hnn, fun s x => ?_⟩
  obtain ⟨t, hnext, hi, hframe⟩ := complete_setI_writes_only (fun u => u.i + zext (u.reg x)) s
  exact ⟨t, hnext, by rw [hi, BitVec.toNat_add, zext_toNat, State.advance_i, State.reg_advance], hframe⟩

namespace Machine

/-! ### Digits -/

/-- The three digits of a byte, each below ten, fit a byte. -/
theorem bcdDigits_toNat (b : Byte) :
    (bcdDigits b).map BitVec.toNat = [b.toNat / 100, b.toNat / 10 % 10, b.toNat % 10] := by
  have hb := b.isLt
  have hhundreds : b.toNat / 100 < 2 ^ 8 := by omega
  have htens : b.toNat / 10 % 10 < 2 ^ 8 := by omega
  have hunits : b.toNat % 10 < 2 ^ 8 := by omega
  simp only [bcdDigits, List.map_cons, List.map_nil, BitVec.toNat_ofNat, Nat.mod_eq_of_lt, hhundreds, htens, hunits]

/-- FX33's three stores: digit `k` at the `k`-th address, every other address as before. -/
theorem read_writeBytes_bcdDigits (m : Memory) (a : Nat) (b : Byte) (hwf : Memory.wf m = true) (ha : a + 2 ≤ 4095) :
    ((m.writeBytes a (bcdDigits b)).read a).toNat = b.toNat / 100 ∧
    ((m.writeBytes a (bcdDigits b)).read (a + 1)).toNat = b.toNat / 10 % 10 ∧
    ((m.writeBytes a (bcdDigits b)).read (a + 2)).toNat = b.toNat % 10 ∧
    ∀ k, k ≠ a → k ≠ a + 1 → k ≠ a + 2 → (m.writeBytes a (bcdDigits b)).read k = m.read k := by
  have hlen : (bcdDigits b).length = 3 := rfl
  have hread := Memory.read_writeBytes (bcdDigits b) m a hwf (by omega)
  rw [hlen] at hread
  have hdigits := bcdDigits_toNat b
  simp only [bcdDigits, List.map_cons, List.map_nil, List.cons.injEq] at hdigits
  obtain ⟨hhundreds, htens, hunits, -⟩ := hdigits
  refine ⟨?_, ?_, ?_, fun k h0 h1 h2 => ?_⟩
  · rw [hread, if_pos (by omega), Nat.sub_self]; exact hhundreds
  · rw [hread, if_pos (by omega), Nat.add_sub_cancel_left]; exact htens
  · rw [hread, if_pos (by omega), Nat.add_sub_cancel_left]; exact hunits
  · rw [hread, if_neg (by omega)]

/-- FX55 and FX65 reach no address above the one of register `X`. -/
theorem effAddr_le_of_mem_regsUpTo {s : State} {x r : Reg} (h : effAddr s x.val ≤ 4095) (hr : r ∈ regsUpTo x) :
    effAddr s 0 + r.val < 4096 := by
  have hle : r.val ≤ x.val := (mem_regsUpTo x r).mp hr
  simp only [effAddr] at h ⊢
  omega

end Machine

/-- Settles O26, by the range check. -/
theorem bcdStoresThreeDigits : Obligations.BcdStoresThreeDigits := by
  refine ⟨fun w hop hnn => decode_of_code_F hop hnn, fun s x hwf => ⟨fun hout => ?_, fun hin => ?_⟩⟩
  · rw [exec_bcd, if_pos hout]
  · obtain ⟨hhundreds, htens, hunits, hother⟩ := read_writeBytes_bcdDigits s.mem (effAddr s 0) (s.reg x) hwf hin
    rw [exec_bcd, if_neg (by omega)]
    exact ⟨_, rfl, hhundreds, htens, hunits, hother, rfl⟩

/-- Settles O27, by the range check; in range every register up to `X` is stored at its own address. -/
theorem storeRegistersToMemory : Obligations.StoreRegistersToMemory := by
  refine ⟨fun w hop hnn => decode_of_code_F hop hnn, fun s x hwf => ⟨fun hout => ?_, fun hin => ?_⟩⟩
  · rw [exec_store, if_pos hout]
  · have hrange : ∀ r ∈ regsUpTo x, effAddr s 0 + r.val < 4096 := fun r => effAddr_le_of_mem_regsUpTo hin
    rw [exec_store, if_neg (by omega)]
    refine ⟨_, rfl, fun r hr => ?_, fun a ha => ?_, rfl⟩
    · exact storeRegs_read_stored _ _ _ _ hwf hrange r ((mem_regsUpTo x r).mpr hr)
    · exact storeRegs_read_other _ _ _ _ hwf hrange a fun r hr => ha r ((mem_regsUpTo x r).mp hr)

/-- Settles O28, by the range check; in range every register up to `X` is loaded from its own address. -/
theorem loadRegistersFromMemory : Obligations.LoadRegistersFromMemory := by
  refine ⟨fun w hop hnn => decode_of_code_F hop hnn, fun s x => ⟨fun hout => ?_, fun hin => ?_⟩⟩
  · rw [exec_load, if_pos hout]
  · rw [exec_load, if_neg (by omega)]
    refine ⟨_, rfl, fun r hr => ?_, fun r hr => ?_, rfl⟩
    · exact (loadRegs_get _ _ _ _ r).trans (if_pos ((mem_regsUpTo x r).mpr hr))
    · exact (loadRegs_get _ _ _ _ r).trans (if_neg fun hm => absurd ((mem_regsUpTo x r).mp hm) (not_le.mpr hr))

/-- Settles O33: FX65 reads each register's address, where FX55 left the register, and `I` is the same for both. -/
theorem storeThenLoadRestoresRegisters : Obligations.StoreThenLoadRestoresRegisters := by
  intro s t x v hwf hin hstore
  obtain ⟨t', hnext, hstored, _, hframe⟩ := (storeRegistersToMemory.2 s x hwf).2 hin
  obtain rfl : t = t' := Host.Outcome.next.inj (hstore.symm.trans hnext)
  have hi : t.i = s.i := by rw [hframe]
  have haddr : ∀ k, effAddr { t with v := v } k = effAddr s k := fun k => congrArg (fun i : Word => i.toNat + k) hi
  obtain ⟨u, hload, hloaded, hkept, huframe⟩ := (loadRegistersFromMemory.2 { t with v := v } x).2 (by rw [haddr]; exact hin)
  refine ⟨u, hload, fun r hr => ?_, hkept, ?_, ?_⟩
  · rw [hloaded r hr, haddr, hstored r hr]
  · rw [huframe, hi]
  · rw [huframe]

/-- Settles O36: FX55 stores `V[0]` and `V[1]` at the two addresses of the next word, which is in range because `X` is. -/
theorem storeIsSeenByTheNextFetch : Obligations.StoreIsSeenByTheNextFetch := by
  intro s t x hwf hx hi hin hstore
  obtain ⟨t', hnext, hstored, _, hframe⟩ := (storeRegistersToMemory.2 s x hwf).2 hin
  obtain rfl : t = t' := Host.Outcome.next.inj (hstore.symm.trans hnext)
  have hpc : t.pc.toNat = s.i.toNat := by rw [hframe, hi]
  have hle : t.pc.toNat ≤ 4094 := by simp only [effAddr] at hin; omega
  have hhigh : t.mem.read t.pc.toNat = s.reg 0 := by rw [hpc]; exact hstored 0 (Fin.zero_le x)
  have hlow : t.mem.read (t.pc.toNat + 1) = s.reg 1 := by rw [hpc]; exact hstored 1 hx
  refine ⟨wordAt t.mem t.pc.toNat, fetch_of_le t hle, ?_, ?_⟩
  · rw [wordAt_toNat, hhigh, hlow]
  · rw [engineStep_eq, if_neg (by omega)]

/-! ### Keypad and timers -/

namespace Machine

theorem indexByte_toNat (k : Fin 16) : (indexByte k).toNat = k.val :=
  (BitVec.toNat_ofNat _ _).trans (Nat.mod_eq_of_lt (lt_trans k.isLt (by decide)))

theorem exec_ldVxDt (x : Reg) (s : State) : exec (.ldVxDt x) s = complete (fun u => u.setReg x u.dt) s := rfl

theorem exec_ldVxK_of_lowest {s : State} {k : Fin 16} (x : Reg) (h : lowestKey s.keys = some k) :
    exec (.ldVxK x) s = .next { s with v := s.v.set x.val (indexByte k) x.isLt, pc := s.pc + 2 } := by
  rw [exec_ldVxK, h]

theorem exec_ldVxK_of_none {s : State} (x : Reg) (h : ∀ k, s.keys.get k = false) : exec (.ldVxK x) s = .next s := by
  rw [exec_ldVxK, (lowestKey_none s.keys).mpr h]

end Machine

/-- Settles O31, by whether a key is down. -/
theorem keyWaitStoresLowestKeyOrRepeats : Obligations.KeyWaitStoresLowestKeyOrRepeats := by
  refine ⟨fun w hop hnn => decode_of_code_F hop hnn, fun s x => ⟨fun k hdown hlow => ?_, exec_ldVxK_of_none x⟩⟩
  have hread : ∀ r, (s.v.set x.val (indexByte k) x.isLt).get r = if r = x then indexByte k else s.reg r :=
    fun r => get_set s.v x r (indexByte k)
  refine ⟨_, exec_ldVxK_of_lowest x ((lowestKey_some s.keys k).mpr ⟨hdown, hlow⟩), ?_, fun r hr => ?_, rfl⟩
  · exact (congrArg BitVec.toNat ((hread x).trans (if_pos rfl))).trans (indexByte_toNat k)
  · exact (hread r).trans (if_neg hr)

/-- Settles O32: one register write and two timer writes. -/
theorem timerAccess : Obligations.TimerAccess := by
  refine ⟨fun w hop hnn => decode_of_code_F hop hnn, fun w hop hnn => decode_of_code_F hop hnn,
    fun w hop hnn => decode_of_code_F hop hnn, fun s x => ⟨?_, rfl, rfl⟩⟩
  rw [exec_ldVxDt]
  exact complete_setReg_writes_only (fun u => u.dt) x s

end Sys2Proof

/-! The sprite instruction DXYN (spec/44_display.md R161, R162), cell by cell. -/

namespace Sys2Proof

namespace Machine

/-- On a row of the screen the visible rows of the sprite are all its rows, so the cells drawn are those of `spritePixel`. -/
theorem drawSprite_cell (s : State) {x0 y0 n : Nat} (hy0 : y0 < 32) {cx cy : Nat} (hcx : cx < 64) (hcy : cy < 32) :
    Display.cell (drawSprite s.mem (effAddr s 0) x0 y0 (min n (32 - y0)) s.display).grid cx cy =
      (Display.cell s.display cx cy != spritePixel s x0 y0 n cx cy) := by
  have hfit : y0 + 0 + min n (32 - y0) ≤ 32 := by omega
  rw [drawSprite, drawRows_spec _ _ _ _ _ _ hfit _ _ _ hcx]
  exact flip_congr _ _ (by omega)

/-- A sprite collides when one of its 1 bits falls on a cell of the screen that is on. -/
theorem drawSprite_collided (s : State) {x0 y0 n : Nat} (hy0 : y0 < 32) :
    (drawSprite s.mem (effAddr s 0) x0 y0 (min n (32 - y0)) s.display).collided = true ↔
      ∃ cx cy, cx < 64 ∧ cy < 32 ∧ spritePixel s x0 y0 n cx cy = true ∧ Display.cell s.display cx cy = true := by
  have hfit : y0 + 0 + min n (32 - y0) ≤ 32 := by omega
  rw [drawSprite, drawRows_collided _ _ _ _ _ _ hfit]
  simp only [Bool.false_eq_true, false_or, spritePixel, Bool.and_eq_true, decide_eq_true_eq]
  refine exists_congr fun cx => exists_congr fun cy => ⟨?_, ?_⟩
  · rintro ⟨hcx, hx0, hx8, hy, hyn, hbit, hon⟩
    exact ⟨hcx, by omega, ⟨⟨hx0, hx8, by omega, by omega⟩, hbit⟩, hon⟩
  · rintro ⟨hcx, hcy, ⟨⟨hx0, hx8, hy, hyn⟩, hbit⟩, hon⟩
    exact ⟨hcx, hx0, hx8, by omega, by omega, hbit, hon⟩

theorem flagByte_eq_one_iff (b : Bool) : flagByte b = 1 ↔ b = true := by cases b <;> decide

theorem flagByte_one_or_zero (b : Bool) : flagByte b = 1 ∨ flagByte b = 0 := by cases b <;> decide

theorem drawEffect_reg (x0 y0 rows : Nat) (t : State) (r : Reg) :
    (drawEffect x0 y0 rows t).reg r =
      if r = 15 then flagByte (drawSprite t.mem (effAddr t 0) x0 y0 rows t.display).collided else t.reg r := by
  simp only [drawEffect, State.reg_setRedraw, State.reg_setReg, State.reg_setDisplay]

end Machine

open Machine

/-- Settles O30, by whether the check of the visible rows fails; the advance past the instruction leaves all that drawing reads. -/
theorem drwXorsTheClippedSprite : Obligations.DrwXorsTheClippedSprite := by
  refine ⟨fun w hop => decode_of_fieldOP_D hop, fun s x y n => ?_⟩
  intro x0 y0 rows
  have hy0 : y0 < 32 := Nat.mod_lt _ (by decide)
  refine ⟨fun hrows hout => ?_, fun hin => ?_⟩
  · exact (exec_drw x y n s).trans (if_pos ⟨hrows, hout⟩)
  · have hnext : exec (.drw x y n) s = .next (drawEffect x0 y0 rows s.advance) :=
      (exec_drw x y n s).trans (if_neg fun h => absurd (hin h.1) (not_le.mpr h.2))
    have hF := (drawEffect_reg x0 y0 rows s.advance 15).trans (if_pos rfl)
    refine ⟨_, hnext, fun cx cy hcx hcy => drawSprite_cell s hy0 hcx hcy, ?_, ?_, fun r hr => ?_, rfl⟩
    · rw [hF]; exact flagByte_one_or_zero _
    · rw [hF, flagByte_eq_one_iff]; exact drawSprite_collided s hy0
    · exact (drawEffect_reg x0 y0 rows s.advance r).trans (if_neg hr)

/-- Settles O35: the first draw changes neither the origin nor the sprite, so the second inverts the same cells again. -/
theorem drawingTwiceRestoresTheDisplay : Obligations.DrawingTwiceRestoresTheDisplay := by
  intro s t u x y n hx hy hfirst hok hsecond
  have hin : 0 < min n.val (32 - (s.reg y).toNat % 32) → effAddr s (min n.val (32 - (s.reg y).toNat % 32) - 1) ≤ 4095 := by
    intro hrows
    by_contra hout
    have hfault := (drwXorsTheClippedSprite.2 s x y n).1 hrows (not_le.mp hout)
    obtain rfl := Host.Outcome.next.inj (hfirst.symm.trans hfault)
    exact absurd hok (Option.some_ne_none _)
  obtain ⟨t', htnext, htcell, htF, htcoll, htreg, htframe⟩ := (drwXorsTheClippedSprite.2 s x y n).2 hin
  obtain rfl : t = t' := Host.Outcome.next.inj (hfirst.symm.trans htnext)
  have hi : t.i = s.i := by rw [htframe]
  have hmem : t.mem = s.mem := by rw [htframe]
  have hpix : spritePixel t = spritePixel s := by unfold spritePixel; rw [hi, hmem]
  have haddr : effAddr t = effAddr s := by unfold effAddr; rw [hi]
  have hsec := (drwXorsTheClippedSprite.2 t x y n).2
  rw [htreg x hx, htreg y hy, haddr, hpix] at hsec
  obtain ⟨u', hunext, hucell, huF, hucoll, -, -⟩ := hsec hin
  obtain rfl : u = u' := Host.Outcome.next.inj (hsecond.symm.trans hunext)
  refine ⟨Display.ext_cell _ _ fun cx cy hcx hcy => ?_, fun hoff hpixel => ⟨?_, ?_⟩⟩
  · rw [hucell cx cy hcx hcy, htcell cx cy hcx hcy, Bool.bne_assoc, bne_self_eq_false, Bool.bne_false]
  · refine htF.resolve_left fun hone => ?_
    obtain ⟨cx, cy, hcx, hcy, hbit, hon⟩ := htcoll.mp hone
    rw [hoff cx cy hcx hcy hbit] at hon
    exact Bool.false_ne_true hon
  · obtain ⟨cx, cy, hcx, hcy, hbit⟩ := hpixel
    have hon : Display.cell t.display cx cy = true := by
      rw [htcell cx cy hcx hcy, hoff cx cy hcx hcy hbit, hbit]
      rfl
    exact hucoll.mpr ⟨cx, cy, hcx, hcy, hbit, hon⟩

end Sys2Proof

/-! Reset and INIT (spec/10_state.md R37, spec/20_memory.md R53, spec/70_reset_and_hazards.md R230). -/

namespace Sys2Proof

namespace Machine

/-- Above the font table INIT leaves zero (R37). -/
theorem initByte_of_ge {a : Nat} (h : 80 ≤ a) : Memory.initByte a = 0 := List.getD_eq_default _ _ h

/-- Memory after INIT reads as FONT, then the image over it, and as zero where neither lies. -/
theorem read_init (font image : List Byte) (hfont : font.length = 80) (himage : image.length ≤ 3584) (a : Nat) :
    (Memory.init font image).read a =
      if a < 80 then font.getD a 0 else if 512 ≤ a ∧ a < 512 + image.length then image.getD (a - 512) 0 else 0 := by
  have htake : font.take 80 = font := List.take_of_length_le (by omega)
  have hwf : Memory.wf (Memory.writeBytes [] 0 font) = true := Memory.wf_writeBytes font [] 0 rfl (by omega)
  rw [Memory.init, htake, Memory.read_writeBytes image _ 512 hwf (by omega), Memory.read_writeBytes font [] 0 rfl (by omega)]
  by_cases hlow : a < 80
  · rw [if_neg (by omega), if_pos (by omega), if_pos hlow, Nat.sub_zero]
  · rw [if_neg hlow, if_neg (by omega : ¬(0 ≤ a ∧ a < 0 + font.length))]
    exact if_congr Iff.rfl rfl (initByte_of_ge (by omega))

theorem wf_init (font image : List Byte) (hfont : font.length = 80) (himage : image.length ≤ 3584) :
    Memory.wf (Memory.init font image) = true := by
  have htake : font.take 80 = font := List.take_of_length_le (by omega)
  rw [Memory.init, htake]
  exact Memory.wf_writeBytes image _ 512 (Memory.wf_writeBytes font [] 0 rfl (by omega)) (by omega)

theorem vector_get_replicate {α : Type} {n : Nat} (a : α) (i : Fin n) : (Vector.replicate n a).get i = a := by
  rw [Vector.get_eq_getElem, Vector.getElem_replicate]

end Machine

open Machine

/-- Settles O2, by the length of the image. -/
theorem initLoadsFontAndImage : Obligations.InitLoadsFontAndImage := by
  intro font image hfont
  refine ⟨fun hlong => if_pos hlong, fun hfits => ⟨_, if_neg (not_lt.mpr hfits), rfl, ?_, fun a _ => ?_⟩⟩
  · exact wf_init font image hfont hfits
  · exact read_init font image hfont hfits a

/-- Settles O1: the reset state is the table's by definition; its empty memory reads as INIT left it. -/
theorem resetLeavesTheTablesValues : Obligations.ResetLeavesTheTablesValues := by
  refine ⟨rfl, fun r => vector_get_replicate 0 r, rfl, rfl, fun k => vector_get_replicate 0 k, rfl, rfl,
    fun k => vector_get_replicate false k, Display.cell_clear, rfl, rfl, rfl, fun a _ => rfl, fun a ha => initByte_of_ge ha⟩

end Sys2Proof

/-! What any instruction can do, said once (spec/10_state.md R24, R38, spec/60_exceptions.md R200): every instruction answers a next
state, in which it has either latched a fault of the table and changed nothing else, or written only the pieces of state of its kind,
with `PC` where R24's table says. -/

namespace Sys2Proof

namespace Machine

/-- The mutators of R38's table: which pieces of state, besides `PC`, an instruction that completes may write. -/
inductive Writes where
  | pcOnly
  | regs
  | regsAndRandom
  | index
  | memory
  | stack
  | delayTimer
  | soundTimer
  | display
  | displayAndRegs

/-- The two states agree but for `PC` and the pieces of state that may be written; an instruction that writes the display raises
redraw (R31). -/
def Writes.Frame (w : Writes) (s t : State) : Prop :=
  match w with
  | .pcOnly => t = { s with pc := t.pc }
  | .regs => t = { s with v := t.v, pc := t.pc }
  | .regsAndRandom => t = { s with v := t.v, rndIn := t.rndIn, draws := t.draws, pc := t.pc }
  | .index => t = { s with i := t.i, pc := t.pc }
  | .memory => t = { s with mem := t.mem, pc := t.pc }
  | .stack => t = { s with stack := t.stack, sp := t.sp, pc := t.pc }
  | .delayTimer => t = { s with dt := t.dt, pc := t.pc }
  | .soundTimer => t = { s with st := t.st, pc := t.pc }
  | .display => t = { s with display := t.display, redraw := true, pc := t.pc }
  | .displayAndRegs => t = { s with display := t.display, v := t.v, redraw := true, pc := t.pc }

/-- R200's table: the fault an instruction latches, with its cause. -/
def FaultCause (i : Instr) (s : State) (c : FaultCode) : Prop :=
  (c = .stackOverflow ∧ s.sp.val = 12 ∧ ∃ nnn, i = .call nnn) ∨
  (c = .stackUnderflow ∧ s.sp.val = 0 ∧ i = .ret) ∨
  (c = .dataOutOfRange ∧
    ((∃ x, i = .bcd x ∧ 4095 < effAddr s 2) ∨ (∃ x, i = .store x ∧ 4095 < effAddr s x.val) ∨
      (∃ x, i = .load x ∧ 4095 < effAddr s x.val) ∨
      ∃ x y n, i = .drw x y n ∧ 0 < min n.val (32 - (s.reg y).toNat % 32) ∧
        4095 < effAddr s (min n.val (32 - (s.reg y).toNat % 32) - 1)))

end Machine

open Machine

/-- The kind of an instruction in R38's table. -/
def Instr.writes : Instr → Writes
  | .sys _ | .jp _ | .jpV0 _ | .seImm _ _ | .sneImm _ _ | .seReg _ _ _ | .sneReg _ _ _ | .skp _ | .sknp _ | .res8 _ _ _
  | .resE _ _ | .resF _ _ => .pcOnly
  | .ldImm _ _ | .addImm _ _ | .ldReg _ _ | .orReg _ _ | .andReg _ _ | .xorReg _ _ | .addReg _ _ | .sub _ _ | .shr _ _
  | .subn _ _ | .shl _ _ | .ldVxDt _ | .ldVxK _ | .load _ => .regs
  | .rnd _ _ => .regsAndRandom
  | .ldI _ | .addI _ | .ldF _ => .index
  | .bcd _ | .store _ => .memory
  | .ret | .call _ => .stack
  | .ldDtVx _ => .delayTimer
  | .ldStVx _ => .soundTimer
  | .cls => .display
  | .drw _ _ _ => .displayAndRegs

namespace Machine

/-- How an instruction that answers `t` has ended. -/
inductive Ended (i : Instr) (s t : State) : Prop where
  | faulted (c : FaultCode) (same : t = { s with fault := some c }) (cause : FaultCause i s c)
  | completed (frame : i.writes.Frame s t) (pc : PcAfter i s t.pc)

/-! ### The instructions that may fault -/

theorem exec_ret_ended (s : State) : ∃ t, exec .ret s = .next t ∧ Ended .ret s t := by
  rw [exec_ret]
  by_cases h : 0 < s.sp.val
  · rw [dif_pos h]
    exact ⟨_, rfl, .completed rfl ⟨⟨s.sp.val - 1, by omega⟩, Nat.sub_add_cancel h, rfl⟩⟩
  · rw [dif_neg h]
    exact ⟨_, rfl, .faulted _ rfl (.inr (.inl ⟨rfl, Nat.eq_zero_of_not_pos h, rfl⟩))⟩

theorem exec_call_ended (nnn : Addr12) (s : State) : ∃ t, exec (.call nnn) s = .next t ∧ Ended (.call nnn) s t := by
  rw [exec_call]
  by_cases h : s.sp.val < 12
  · rw [dif_pos h]
    exact ⟨_, rfl, .completed rfl (addrOf_toNat nnn)⟩
  · rw [dif_neg h]
    exact ⟨_, rfl, .faulted _ rfl (.inl ⟨rfl, by omega, nnn, rfl⟩)⟩

/-- An instruction that checks a range first: the fault under the check's condition, else its one completion. -/
theorem ended_of_range_check {i : Instr} {s t : State} {c : FaultCode} {p : Prop} [Decidable p]
    (h : exec i s = if p then .next { s with fault := some c } else .next t) (cause : p → FaultCause i s c)
    (frame : i.writes.Frame s t) (pc : PcAfter i s t.pc) : ∃ t, exec i s = .next t ∧ Ended i s t := by
  by_cases hp : p
  · exact ⟨_, h.trans (if_pos hp), .faulted c rfl (cause hp)⟩
  · exact ⟨t, h.trans (if_neg hp), .completed frame pc⟩

/-- FX0A completes whether a key is down or not: with none it leaves `PC` at itself. -/
theorem exec_ldVxK_ended (x : Reg) (s : State) : ∃ t, exec (.ldVxK x) s = .next t ∧ Ended (.ldVxK x) s t := by
  cases hk : lowestKey s.keys with
  | none =>
    have hup := (lowestKey_none s.keys).mp hk
    exact ⟨s, exec_ldVxK_of_none x hup, .completed rfl ⟨fun ⟨k, hdown⟩ => absurd hdown (by simp [hup k]), fun _ => rfl⟩⟩
  | some k =>
    have hdown := ((lowestKey_some s.keys k).mp hk).1
    exact ⟨_, exec_ldVxK_of_lowest x hk, .completed rfl ⟨fun _ => rfl, fun hup => absurd hdown (by simp [hup k])⟩⟩

/-- Every instruction answers a next state, and ends in one of the two ways. -/
theorem exec_ended (i : Instr) (s : State) : ∃ t, exec i s = .next t ∧ Ended i s t := by
  cases i with
  | ret => exact exec_ret_ended s
  | call nnn => exact exec_call_ended nnn s
  | bcd x => exact ended_of_range_check (exec_bcd x s) (fun h => .inr (.inr ⟨rfl, .inl ⟨x, rfl, h⟩⟩)) rfl rfl
  | store x => exact ended_of_range_check (exec_store x s) (fun h => .inr (.inr ⟨rfl, .inr (.inl ⟨x, rfl, h⟩)⟩)) rfl rfl
  | load x => exact ended_of_range_check (exec_load x s) (fun h => .inr (.inr ⟨rfl, .inr (.inr (.inl ⟨x, rfl, h⟩))⟩)) rfl rfl
  | drw x y n =>
    exact ended_of_range_check (exec_drw x y n s) (fun h => .inr (.inr ⟨rfl, .inr (.inr (.inr ⟨x, y, n, rfl, h⟩))⟩)) rfl rfl
  | ldVxK x => exact exec_ldVxK_ended x s
  | jp nnn => exact ⟨_, exec_jp nnn s, .completed rfl (addrOf_toNat nnn)⟩
  | jpV0 nnn =>
    have hsum := zext_add_addrOf_toNat (s.reg 0) nnn
    exact ⟨_, exec_jpV0 nnn s, .completed rfl ⟨hsum, by show (zext _ + addrOf nnn).toNat ≤ _; omega⟩⟩
  | seImm x nn => exact ⟨_, exec_seImm_iff x nn s, .completed rfl rfl⟩
  | sneImm x nn => exact ⟨_, exec_sneImm_iff x nn s, .completed rfl rfl⟩
  | seReg x y n => exact ⟨_, exec_seReg_iff x y n s, .completed rfl rfl⟩
  | sneReg x y n => exact ⟨_, exec_sneReg_iff x y n s, .completed rfl rfl⟩
  | skp x => exact ⟨_, exec_skp_iff x s, .completed rfl rfl⟩
  | sknp x => exact ⟨_, exec_sknp_iff x s, .completed rfl rfl⟩
  | _ => exact ⟨_, rfl, .completed rfl rfl⟩

theorem ended_of_exec {i : Instr} {s t : State} (h : exec i s = .next t) : Ended i s t := by
  obtain ⟨u, hnext, hended⟩ := exec_ended i s
  exact Host.Outcome.next.inj (h.symm.trans hnext) ▸ hended

/-! ### What a kind's frame keeps, piece by piece -/

/-- No instruction that completes writes the keys, the run state, the fault latch or the tick's own fields. -/
theorem Writes.Frame.keeps {w : Writes} {s t : State} (h : w.Frame s t) :
    t.fault = s.fault ∧ t.keys = s.keys ∧ t.runState = s.runState ∧ t.redrawOut = s.redrawOut ∧ t.phase = s.phase ∧
    t.moves = s.moves ∧ t.ticks = s.ticks := by
  cases w <;> (rw [Writes.Frame] at h; rw [h]; exact ⟨rfl, rfl, rfl, rfl, rfl, rfl, rfl⟩)

/-- Each piece of state is kept but by the kinds that write it. -/
theorem Writes.Frame.pieces {w : Writes} {s t : State} (h : w.Frame s t) :
    (t.mem = s.mem ∨ w = .memory) ∧ (t.v = s.v ∨ w ∈ [.regs, .regsAndRandom, .displayAndRegs]) ∧ (t.i = s.i ∨ w = .index) ∧
    ((t.stack = s.stack ∧ t.sp = s.sp) ∨ w = .stack) ∧ (t.dt = s.dt ∨ w = .delayTimer) ∧ (t.st = s.st ∨ w = .soundTimer) ∧
    ((t.display = s.display ∧ t.redraw = s.redraw) ∨ (t.redraw = true ∧ w ∈ [.display, .displayAndRegs])) ∧
    ((t.rndIn = s.rndIn ∧ t.draws = s.draws) ∨ w = .regsAndRandom) := by
  cases w <;> (rw [Writes.Frame] at h; rw [h]; simp)

end Machine

/-! ### The instructions of each kind (R38) -/

theorem Instr.of_writes_memory {i : Instr} (h : i.writes = .memory) : ∃ x, i = .bcd x ∨ i = .store x := by
  cases i <;> simp [Instr.writes] at h ⊢

theorem Instr.of_writes_regs {i : Instr} (h : i.writes ∈ [.regs, .regsAndRandom, .displayAndRegs]) :
    ∃ x y n nn, i ∈ ([.ldImm x nn, .addImm x nn, .ldReg x y, .orReg x y, .andReg x y, .xorReg x y, .addReg x y,
      .sub x y, .shr x y, .subn x y, .shl x y, .rnd x nn, .drw x y n, .ldVxDt x, .ldVxK x, .load x] : List Instr) := by
  cases i <;> simp [Instr.writes] at h ⊢

theorem Instr.of_writes_index {i : Instr} (h : i.writes = .index) : ∃ nnn x, i ∈ ([.ldI nnn, .addI x, .ldF x] : List Instr) := by
  cases i <;> simp [Instr.writes] at h ⊢

theorem Instr.of_writes_stack {i : Instr} (h : i.writes = .stack) : i = .ret ∨ ∃ nnn, i = .call nnn := by
  cases i <;> simp [Instr.writes] at h ⊢

theorem Instr.of_writes_delayTimer {i : Instr} (h : i.writes = .delayTimer) : ∃ x, i = .ldDtVx x := by
  cases i <;> simp [Instr.writes] at h ⊢

theorem Instr.of_writes_soundTimer {i : Instr} (h : i.writes = .soundTimer) : ∃ x, i = .ldStVx x := by
  cases i <;> simp [Instr.writes] at h ⊢

theorem Instr.of_writes_display {i : Instr} (h : i.writes ∈ [.display, .displayAndRegs]) : i = .cls ∨ ∃ x y n, i = .drw x y n := by
  cases i <;> simp [Instr.writes] at h ⊢

theorem Instr.of_writes_random {i : Instr} (h : i.writes = .regsAndRandom) : ∃ x nn, i = .rnd x nn := by
  cases i <;> simp [Instr.writes] at h ⊢

/-- Settles O40: the first half is how any instruction ends. -/
theorem faultsAreThoseOfTheTable : Obligations.FaultsAreThoseOfTheTable := by
  refine ⟨fun i s t h => ?_, fun s => ⟨rfl, rfl, rfl, rfl, rfl⟩⟩
  cases ended_of_exec h with
  | faulted c same cause => exact .inr ⟨c, same, cause⟩
  | completed frame pc => exact .inl frame.keeps.1

/-- Settles O45: the table's rows for an instruction that completes, and no move for one that faults. -/
theorem pcAfterEachInstruction : Obligations.PcAfterEachInstruction := by
  intro i s t hok h
  cases ended_of_exec h with
  | faulted c same cause =>
    subst same
    exact ⟨fun hnone => absurd hnone (Option.some_ne_none c), fun _ => rfl⟩
  | completed frame pc => exact ⟨fun _ => pc, fun hfault => absurd (frame.keeps.1.trans hok) hfault⟩

/-- Settles O43: each piece of state by the kinds that write it; a fault writes none of them. -/
theorem mutatorsOfEachPieceOfState : Obligations.MutatorsOfEachPieceOfState := by
  intro i s t h
  cases ended_of_exec h with
  | faulted c same cause => subst same; simp
  | completed frame pc =>
    obtain ⟨hmem, hv, hi, hstack, hdt, hst, hdisplay, hrnd⟩ := frame.pieces
    exact ⟨hmem.imp_right Instr.of_writes_memory, hv.imp_right Instr.of_writes_regs, hi.imp_right Instr.of_writes_index,
      hstack.imp_right Instr.of_writes_stack, hdt.imp_right Instr.of_writes_delayTimer, hst.imp_right Instr.of_writes_soundTimer,
      hdisplay.imp_right fun hw => Instr.of_writes_display hw.2, hrnd.imp_right Instr.of_writes_random, frame.keeps.2⟩

namespace Machine

/-- The word after an instruction is not the instruction's own. -/
theorem ne_add_two (w : Word) : w ≠ w + 2 := by bv_omega

end Machine

/-- Settles O44: a DXYN that faults leaves `PC`, every other instruction of the two display kinds raises redraw, and no other kind
writes it. -/
theorem redrawIsRaisedByClsAndDrw : Obligations.RedrawIsRaisedByClsAndDrw := by
  intro i s t h
  cases ended_of_exec h with
  | faulted c same cause =>
    have hcls : i ≠ .cls := by rintro rfl; simp [FaultCause] at cause
    subst same
    refine ⟨.inl, fun hraised => ?_⟩
    rcases hraised with hbefore | hi | ⟨x, y, n, -, hpc⟩
    · exact hbefore
    · exact absurd hi hcls
    · exact absurd hpc (ne_add_two s.pc)
  | completed frame pc =>
    obtain ⟨-, -, -, -, -, -, ⟨-, hkept⟩ | ⟨hraised, hkind⟩, -⟩ := frame.pieces
    · rw [hkept]
      refine ⟨.inl, fun hraised => ?_⟩
      rcases hraised with hbefore | rfl | ⟨x, y, n, rfl, -⟩
      · exact hbefore
      · exact hkept.symm.trans (congrArg State.redraw frame)
      · exact hkept.symm.trans (congrArg State.redraw frame)
    · refine ⟨fun _ => ?_, fun _ => hraised⟩
      rcases Instr.of_writes_display hkind with rfl | ⟨x, y, n, rfl⟩
      · exact .inr (.inl rfl)
      · exact .inr (.inr ⟨x, y, n, rfl, pc⟩)

end Sys2Proof

/-! What no instruction observes (spec/10_state.md R25, R30, spec/60_exceptions.md R209, R210): the run state, the tick and the host's
queue, and for every instruction but 2NNN and 00EE the whole stack array. -/

namespace Sys2Proof

namespace Machine

/-- Other contents for the pieces of state that instructions do not read. -/
structure Unread where
  onStack   : Vector Word 12 → Vector Word 12
  runState  : RunState
  phase     : Phase
  redrawOut : Bool
  moves     : List HostMove
  ticks     : Nat

/-- The state with those contents. -/
def Unread.put (u : Unread) (s : State) : State :=
  { s with stack := u.onStack s.stack, runState := u.runState, phase := u.phase, redrawOut := u.redrawOut, moves := u.moves,
           ticks := u.ticks }

/-- An instruction that does not move the stack commutes with replacing what it does not read. -/
theorem exec_put {i : Instr} (hi : i.writes ≠ .stack) (u : Unread) (s : State) : exec i (u.put s) = mapNext u.put (exec i s) := by
  cases i with
  | ret => exact absurd rfl hi
  | call nnn => exact absurd rfl hi
  | seImm x nn => rw [exec_seImm_iff, exec_seImm_iff]; rfl
  | sneImm x nn => rw [exec_sneImm_iff, exec_sneImm_iff]; rfl
  | seReg x y n => rw [exec_seReg_iff, exec_seReg_iff]; rfl
  | sneReg x y n => rw [exec_sneReg_iff, exec_sneReg_iff]; rfl
  | skp x => rw [exec_skp_iff, exec_skp_iff]; rfl
  | sknp x => rw [exec_sknp_iff, exec_sknp_iff]; rfl
  | bcd x => rw [exec_bcd, exec_bcd, apply_ite (mapNext u.put)]; rfl
  | store x => rw [exec_store, exec_store, apply_ite (mapNext u.put)]; rfl
  | load x => rw [exec_load, exec_load, apply_ite (mapNext u.put)]; rfl
  | drw x y n => rw [exec_drw, exec_drw, apply_ite (mapNext u.put)]; rfl
  | ldVxK x =>
    cases hk : lowestKey s.keys with
    | none =>
      have hup := (lowestKey_none s.keys).mp hk
      rw [exec_ldVxK_of_none x hup, exec_ldVxK_of_none (s := u.put s) x hup]
      rfl
    | some k =>
      rw [exec_ldVxK_of_lowest x hk, exec_ldVxK_of_lowest (s := u.put s) x hk]
      rfl
  | _ => rfl

end Machine

open Machine

/-- Settles O46: 2NNN and 00EE read the stack, but none of what is replaced here; the other instructions read neither. -/
theorem noInstructionObservesTheScheduler : Obligations.NoInstructionObservesTheScheduler := by
  intro i s r p b q n
  by_cases hi : i.writes = .stack
  · rcases Instr.of_writes_stack hi with rfl | ⟨nnn, rfl⟩
    · rw [exec_ret, exec_ret, apply_dite (mapNext _)]; rfl
    · rw [exec_call, exec_call, apply_dite (mapNext _)]; rfl
  · exact exec_put hi ⟨id, r, p, b, q, n⟩ s

namespace Machine

/-- With the live entries the same, a return pops the same entry. -/
theorem exec_ret_deadStack {s t : State} {stack : Vector Word 12} (hlive : ∀ k : Fin 12, k.val < s.sp.val → stack.get k = s.stack.get k)
    (h : exec .ret s = .next t) : ∃ t', exec .ret { s with stack := stack } = .next t' ∧ SameButDeadStack t t' := by
  rw [exec_ret] at h ⊢
  by_cases hpos : 0 < s.sp.val
  · rw [dif_pos hpos] at h
    obtain rfl := Host.Outcome.next.inj h
    have htop := hlive ⟨s.sp.val - 1, by omega⟩ (Nat.sub_lt hpos Nat.one_pos)
    refine ⟨_, dif_pos hpos, ?_, fun k hk => hlive k (lt_of_lt_of_le hk (Nat.sub_le _ _))⟩
    simp only [htop]
  · rw [dif_neg hpos] at h
    obtain rfl := Host.Outcome.next.inj h
    exact ⟨_, dif_neg hpos, rfl, hlive⟩

/-- A call stores the same entry above the live ones. -/
theorem exec_call_deadStack {nnn : Addr12} {s t : State} {stack : Vector Word 12}
    (hlive : ∀ k : Fin 12, k.val < s.sp.val → stack.get k = s.stack.get k) (h : exec (.call nnn) s = .next t) :
    ∃ t', exec (.call nnn) { s with stack := stack } = .next t' ∧ SameButDeadStack t t' := by
  rw [exec_call] at h ⊢
  by_cases hlt : s.sp.val < 12
  · rw [dif_pos hlt] at h
    obtain rfl := Host.Outcome.next.inj h
    refine ⟨_, dif_pos hlt, rfl, fun k hk => ?_⟩
    have hread : ∀ v : Vector Word 12, (v.set s.sp.val (s.pc + 2) hlt).get k = if k = ⟨s.sp.val, hlt⟩ then s.pc + 2 else v.get k :=
      fun v => vector_get_set v ⟨s.sp.val, hlt⟩ k (s.pc + 2)
    refine (hread stack).trans (Eq.trans ?_ (hread s.stack).symm)
    by_cases hk' : k = ⟨s.sp.val, hlt⟩
    · rw [if_pos hk', if_pos hk']
    · have hlow : k.val < s.sp.val := lt_of_le_of_ne (Nat.le_of_lt_succ hk) fun he => hk' (Fin.ext he)
      rw [if_neg hk', if_neg hk', hlive k hlow]
  · rw [dif_neg hlt] at h
    obtain rfl := Host.Outcome.next.inj h
    exact ⟨_, dif_neg hlt, rfl, hlive⟩

end Machine

/-- Settles O47: a return and a call by their own lemmas; another instruction does not touch the array. -/
theorem deadStackEntriesAreUnobservable : Obligations.DeadStackEntriesAreUnobservable := by
  intro i s s' t ⟨hsame, hlive⟩ h
  generalize s'.stack = stack at hsame hlive
  subst hsame
  by_cases hi : i.writes = .stack
  · rcases Instr.of_writes_stack hi with rfl | ⟨nnn, rfl⟩
    · exact exec_ret_deadStack hlive h
    · exact exec_call_deadStack hlive h
  · obtain ⟨-, -, -, hstack, -, -, -, -, -, hrun, hout, hphase, hmoves, hticks⟩ := mutatorsOfEachPieceOfState i s t h
    obtain ⟨hstack, hsp⟩ := hstack.resolve_right fun hw => by rcases hw with rfl | ⟨nnn, rfl⟩ <;> exact hi rfl
    have hput := exec_put hi ⟨fun _ => stack, s.runState, s.phase, s.redrawOut, s.moves, s.ticks⟩ s
    rw [h] at hput
    refine ⟨_, hput, ?_, fun k hk => ?_⟩
    · rw [Unread.put, ← hrun, ← hphase, ← hout, ← hmoves, ← hticks]
    · rw [hstack]
      exact hlive k (hsp ▸ hk)

end Sys2Proof

/-! STEP and the step of the tick (spec/40_instruction_cycle.md R90, spec/46_frame_scheduler.md R180 to R186): each piece as one
equation, and what a STEP keeps. -/

namespace Sys2Proof

namespace Machine

/-! ### STEP -/

theorem engineStep_of_le {s : State} (h : s.pc.toNat ≤ 4094) : engineStep s = exec (decode (wordAt s.mem s.pc.toNat)) s := by
  rw [engineStep_eq, if_neg (by omega)]

theorem engineStep_of_lt {s : State} (h : 4094 < s.pc.toNat) : engineStep s = .next { s with fault := some .fetchOutOfRange } := by
  rw [engineStep_eq, if_pos h]

/-- Every STEP answers a next state. -/
theorem engineStep_answers (s : State) : ∃ t, engineStep s = .next t := by
  by_cases h : 4094 < s.pc.toNat
  · exact ⟨_, engineStep_of_lt h⟩
  · rw [engineStep_of_le (by omega)]
    obtain ⟨t, hnext, -⟩ := exec_ended (decode (wordAt s.mem s.pc.toNat)) s
    exact ⟨t, hnext⟩

/-- No STEP writes the keys, the run state or the tick's own fields. -/
theorem engineStep_keeps {s t : State} (h : engineStep s = .next t) :
    t.keys = s.keys ∧ t.runState = s.runState ∧ t.redrawOut = s.redrawOut ∧ t.phase = s.phase ∧ t.moves = s.moves ∧
    t.ticks = s.ticks := by
  by_cases hpc : 4094 < s.pc.toNat
  · rw [engineStep_of_lt hpc] at h
    obtain rfl := Host.Outcome.next.inj h
    exact ⟨rfl, rfl, rfl, rfl, rfl, rfl⟩
  · rw [engineStep_of_le (by omega)] at h
    obtain ⟨-, -, -, -, -, -, -, -, hkept⟩ := mutatorsOfEachPieceOfState _ s t h
    exact hkept

/-- An instruction does the same wherever in a tick it runs. -/
theorem exec_setPhase {i : Instr} {s t : State} (h : exec i s = .next t) (p : Phase) : exec i (s.setPhase p) = .next (t.setPhase p) := by
  obtain ⟨-, -, -, -, -, -, -, -, -, hrun, hout, -, hmoves, hticks⟩ := mutatorsOfEachPieceOfState i s t h
  have hcommutes := noInstructionObservesTheScheduler i s s.runState p s.redrawOut s.moves s.ticks
  rw [h] at hcommutes
  refine hcommutes.trans (congrArg Host.Outcome.next ?_)
  rw [← hrun, ← hout, ← hmoves, ← hticks]
  rfl

theorem engineStep_setPhase {s t : State} (h : engineStep s = .next t) (p : Phase) :
    engineStep (s.setPhase p) = .next (t.setPhase p) := by
  by_cases hpc : 4094 < s.pc.toNat
  · rw [engineStep_of_lt hpc] at h
    obtain rfl := Host.Outcome.next.inj h
    exact engineStep_of_lt (s := s.setPhase p) hpc
  · have hle : s.pc.toNat ≤ 4094 := by omega
    rw [engineStep_of_le hle] at h
    exact (engineStep_of_le (s := s.setPhase p) hle).trans (exec_setPhase h p)

/-! ### The step by the phase -/

theorem stepWith_head {clockSpeed : Nat} {s : State} (h : s.phase = .betweenTicks) :
    stepWith clockSpeed s = .next (tickHead clockSpeed s) := by
  unfold stepWith
  rw [h]

theorem stepWith_tail {clockSpeed : Nat} {s : State} (h : s.phase = .inBatch 0) : stepWith clockSpeed s = .next (tickTail s) := by
  unfold stepWith
  rw [h]

theorem stepWith_slot {clockSpeed left : Nat} {s : State} (h : s.phase = .inBatch (left + 1)) :
    stepWith clockSpeed s = slot left s := by
  unfold stepWith
  rw [h]

theorem slot_of_canRun {left : Nat} {s : State} (h : canRun s = true) : slot left s = engineStep (s.setPhase (.inBatch left)) := by
  rw [slot, if_pos h]

theorem slot_of_not_canRun {left : Nat} {s : State} (h : canRun s = false) : slot left s = .next (tickTail s) := by
  rw [slot, if_neg (by rw [h]; exact Bool.false_ne_true)]

/-- A step inside a batch is the tail of the tick, or a STEP with one slot less left. -/
theorem stepWith_inBatch_cases {clockSpeed n : Nat} {s : State} (h : s.phase = .inBatch n) :
    stepWith clockSpeed s = .next (tickTail s) ∨
    ∃ left, n = left + 1 ∧ canRun s = true ∧ stepWith clockSpeed s = engineStep (s.setPhase (.inBatch left)) := by
  cases n with
  | zero => exact .inl (stepWith_tail h)
  | succ left =>
    cases hrun : canRun s with
    | false => exact .inl ((stepWith_slot h).trans (slot_of_not_canRun hrun))
    | true => exact .inr ⟨left, rfl, rfl, (stepWith_slot h).trans (slot_of_canRun hrun)⟩

/-! ### Head and tail of a tick -/

/-- Events and key snapshot change the run state, and the keys unless Halted by then. -/
theorem snapshotKeys_applyEvents (mv : HostMove) (s : State) :
    snapshotKeys mv (applyEvents mv s) =
      { s with runState := (applyEvents mv s).runState,
               keys := if (applyEvents mv s).runState = .halted then s.keys else mv.keysIn } := by
  rw [snapshotKeys_eq]
  have hframe := applyEvents_frame mv s
  generalize (applyEvents mv s).runState = r at hframe
  rw [hframe]

/-- The events look at the run state only. -/
theorem applyEvents_runState_congr {s s' : State} (mv : HostMove) (h : s'.runState = s.runState) :
    (applyEvents mv s').runState = (applyEvents mv s).runState := by
  rw [applyEvents_runState, applyEvents_runState, h]

theorem tickHead_eq (clockSpeed : Nat) (s : State) :
    tickHead clockSpeed s =
      { s with runState := (applyEvents (nextMove s) s).runState,
               keys := if (applyEvents (nextMove s) s).runState = .halted then s.keys else (nextMove s).keysIn,
               phase := .inBatch (clockSpeed / 60), moves := s.moves.tail, ticks := s.ticks + 1 } := by
  have hrun : (applyEvents (nextMove s) s.afterMove).runState = _ := applyEvents_runState_congr (s := s) (nextMove s) rfl
  rw [tickHead, snapshotKeys_applyEvents, hrun]
  rfl

theorem report_decrementTimers (s : State) :
    report (decrementTimers s) =
      { s with dt := if canRun s = true then countDown s.dt else s.dt, st := if canRun s = true then countDown s.st else s.st,
               redrawOut := s.redraw, redraw := false } := by
  rw [decrementTimers_eq]
  rfl

theorem tickTail_eq (s : State) :
    tickTail s =
      { s with dt := if canRun s = true then countDown s.dt else s.dt, st := if canRun s = true then countDown s.st else s.st,
               redrawOut := s.redraw, redraw := false, phase := .betweenTicks } := by
  rw [tickTail, report_decrementTimers]
  rfl

theorem canRun_eq_false_of_fault {s : State} {c : FaultCode} (h : s.fault = some c) : canRun s = false := by
  simp [canRun, h]

end Machine

open Machine

/-- Settles O41, by the phase: head and tail answer by definition, a slot because every STEP answers. -/
theorem everyStepAnswersANextState : Obligations.EveryStepAnswersANextState := by
  have hall : ∀ (clockSpeed : Nat) (s : State), ∃ t, stepWith clockSpeed s = .next t := by
    intro clockSpeed s
    cases hp : s.phase with
    | betweenTicks => exact ⟨_, stepWith_head hp⟩
    | inBatch n =>
      rcases stepWith_inBatch_cases (clockSpeed := clockSpeed) hp with htail | ⟨left, -, -, hslot⟩
      · exact ⟨_, htail⟩
      · rw [hslot]
        exact engineStep_answers _
  exact ⟨hall Config.defaultClockSpeed, hall⟩

/-- Settles O37, by whether both bytes of the word lie in memory. -/
theorem stepFetchesAndExecutes : Obligations.StepFetchesAndExecutes := fun s =>
  ⟨fun hin => ⟨wordAt s.mem s.pc.toNat, engineStep_of_le (by omega), wordAt_toNat _ _⟩, fun hout => engineStep_of_lt (by omega)⟩

/-- Settles O38: a running slot is a STEP with the slot taken, and the bytes at `PC` are the word it fetches. -/
theorem aSlotRunsTheDecodedInstruction : Obligations.ASlotRunsTheDecodedInstruction := by
  intro clockSpeed left s i hphase hrun hfault hpc hbytes
  have hword : decode (wordAt s.mem s.pc.toNat) = i := congrArg Prod.fst (Except.ok.inj hbytes)
  have hslot : slot left s = exec i { s with phase := .inBatch left } := by
    rw [slot_of_canRun ((canRun_iff s).mpr ⟨hrun, hfault⟩), ← hword]
    exact engineStep_of_le (s := s.setPhase (.inBatch left)) hpc
  exact ⟨(stepWith_slot hphase).trans hslot, (stepWith_slot hphase).trans hslot⟩

namespace Machine

theorem fetchPlace_le (s : State) : (fetchPlace s).toNat ≤ 4094 := by
  unfold fetchPlace
  split_ifs with h
  · decide
  · rw [outOfRange_iff] at h
    omega

theorem withSlot_eq (p : Phase) : ∃ left, p.withSlot = .inBatch (left + 1) := by
  match p with
  | .betweenTicks => exact ⟨0, rfl⟩
  | .inBatch 0 => exact ⟨0, rfl⟩
  | .inBatch (n + 1) => exact ⟨n, rfl⟩

/-- The two bytes of a word, stored in memory, are fetched as that word. -/
theorem wordAt_writeBytes (m : Memory) (a : Nat) (w : Word) (hwf : Memory.wf m = true) (ha : a ≤ 4094) :
    wordAt (m.writeBytes a [hiByte w, loByte w]) a = w := by
  have hread := Memory.read_writeBytes [hiByte w, loByte w] m a hwf (by show a + 2 ≤ 4096; omega)
  have hhigh : (m.writeBytes a [hiByte w, loByte w]).read a = hiByte w := by
    rw [hread, if_pos (by show a ≤ a ∧ a < a + 2; omega), Nat.sub_self]; rfl
  have hlow : (m.writeBytes a [hiByte w, loByte w]).read (a + 1) = loByte w := by
    rw [hread, if_pos (by show a ≤ a + 1 ∧ a + 1 < a + 2; omega), Nat.add_sub_cancel_left]; rfl
  rw [wordAt, hhigh, hlow, wordOfBytes_split]

end Machine

/-- Settles O39: the placed word is the one at `PC` of a running slot. -/
theorem placedWordRunsNext : Obligations.PlacedWordRunsNext := by
  intro s w hwf hw
  obtain ⟨left, hleft⟩ := withSlot_eq s.phase
  have hword : wordAt (s.withFetchWord 16 w).mem (s.withFetchWord 16 w).pc.toNat = BitVec.ofNat 16 w :=
    (wordAt_writeBytes s.mem _ _ hwf (fetchPlace_le s)).trans (by rw [tableWord, Nat.mod_eq_of_lt (show w < 2 ^ 16 from hw)])
  refine ⟨left, hleft, ?_⟩
  refine (aSlotRunsTheDecodedInstruction 0 left (s.withFetchWord 16 w) _ hleft rfl rfl (fetchPlace_le s) ?_).2
  rw [← hword]
  rfl

/-- Settles O42: with a fault latched the step is a head or a tail of a tick, and the tail skips the timers. -/
theorem aFaultFreezesTheMachine : Obligations.AFaultFreezesTheMachine := by
  intro clockSpeed s t c hfault h
  have hrun := canRun_eq_false_of_fault hfault
  cases hp : s.phase with
  | betweenTicks =>
    rw [stepWith_head hp, tickHead_eq] at h
    obtain rfl := Host.Outcome.next.inj h
    rfl
  | inBatch n =>
    rcases stepWith_inBatch_cases (clockSpeed := clockSpeed) hp with htail | ⟨left, -, hcan, -⟩
    · rw [htail, tickTail_eq, hrun] at h
      obtain rfl := Host.Outcome.next.inj h
      rfl
    · exact absurd (hrun.symm.trans hcan) Bool.false_ne_true

/-- Settles O54: inside a batch a step is a STEP or the tail, and neither writes them. -/
theorem keysAreConstantWithinABatch : Obligations.KeysAreConstantWithinABatch := by
  intro clockSpeed n s t hp h
  rcases stepWith_inBatch_cases (clockSpeed := clockSpeed) hp with htail | ⟨left, -, -, hslot⟩
  · rw [htail, tickTail_eq] at h
    obtain rfl := Host.Outcome.next.inj h
    exact ⟨rfl, rfl, rfl⟩
  · obtain ⟨hkeys, hrun, -, -, hmoves, -⟩ := engineStep_keeps (hslot.symm.trans h)
    exact ⟨hkeys, hrun, hmoves⟩

/-- Settles O57: the jump to itself leaves `PC` where it was. -/
theorem spinningChangesNothing : Obligations.SpinningChangesNothing := by
  intro clockSpeed left s hfinished hrun hphase
  rcases hfinished with hhalted | ⟨hfault, hpc, nnn, hjump, htarget⟩
  · exact absurd (hrun.symm.trans hhalted) (by decide)
  · have hself : addrOf nnn = s.pc := BitVec.eq_of_toNat_eq ((addrOf_toNat nnn).trans htarget)
    have hslot := (aSlotRunsTheDecodedInstruction clockSpeed left s _ hphase hrun hfault hpc rfl).1
    rw [← wordAt, hjump, exec_jp, hself] at hslot
    exact hslot

namespace Machine

/-- What the host presents to the tick: the oldest move of the queue, or the free value of the tick. -/
theorem nextMove_eq {s : State} {mv : HostMove}
    (h : (∃ rest, s.moves = mv :: rest) ∨ (s.moves = [] ∧ mv = Config.hostMove s.ticks)) : nextMove s = mv := by
  unfold nextMove
  rcases h with ⟨rest, hq⟩ | ⟨hq, hmv⟩
  · rw [hq]
  · rw [hq, hmv]

end Machine

/-- Settles O48, by the run state before the tick. -/
theorem tickHeadAppliesEventsThenKeys : Obligations.TickHeadAppliesEventsThenKeys := by
  intro clockSpeed s mv hp hmv
  have hhead := tickHead_eq clockSpeed s
  rw [nextMove_eq hmv] at hhead
  have hrun := applyEvents_runState mv s
  refine ⟨_, (stepWith_head hp).trans (congrArg Host.Outcome.next hhead), fun h => ?_, fun h hq => ?_, fun h hq => ?_,
    fun h hq => ?_, fun h => if_pos h, fun h => if_neg h, rfl⟩
  · rw [h] at hrun
    exact hrun
  · cases hs : s.runState with
    | halted => exact absurd hs h
    | running => rw [hs, hq] at hrun; exact hrun
    | paused => rw [hs, hq] at hrun; exact hrun
  · rw [h, hq] at hrun
    exact hrun
  · rw [h, hq] at hrun
    exact hrun

/-- Settles O49, by whether the timers may run. -/
theorem tickTailCountsDownAndReports : Obligations.TickTailCountsDownAndReports := by
  intro clockSpeed s hp
  refine ⟨_, (stepWith_tail hp).trans (congrArg Host.Outcome.next (tickTail_eq s)), fun hrun hfault => ?_, fun hnot => ?_, rfl, rfl, rfl⟩
  · have hcan := (canRun_iff s).mpr ⟨hrun, hfault⟩
    simp only [hcan, if_true]
    exact ⟨countDown_toNat s.dt, countDown_toNat s.st⟩
  · have hcan : ¬canRun s = true := fun h => by
      obtain ⟨hrun, hfault⟩ := (canRun_iff s).mp h
      exact hnot.elim (fun hr => hr hrun) fun hf => hf hfault
    simp only [if_neg hcan, and_self]

/-! ### The whole tick -/

namespace Machine

/-- TICK from the answer of its batch. -/
theorem tick_of_batch {clockSpeed : Nat} {mv : HostMove} {s u : State}
    (h : batch (clockSpeed / 60) (snapshotKeys mv (applyEvents mv s)) = .next u) :
    tick clockSpeed mv s = .next (report (decrementTimers u)) := by
  rw [tick, Config.ipt, h]
  rfl

/-- TICK of a machine that may not run after the events: no instruction, no timer. -/
theorem tick_of_not_canRun {clockSpeed : Nat} {mv : HostMove} {s : State}
    (h : ¬((applyEvents mv s).runState = .running ∧ s.fault = none)) :
    tick clockSpeed mv s =
      .next { s with runState := (applyEvents mv s).runState,
                     keys := if (applyEvents mv s).runState = .halted then s.keys else mv.keysIn,
                     redrawOut := s.redraw, redraw := false } := by
  have hbegin := snapshotKeys_applyEvents mv s
  have hcan : canRun (snapshotKeys mv (applyEvents mv s)) = false := by
    rw [hbegin, ← Bool.not_eq_true, canRun_iff]
    exact h
  rw [tick_of_batch (batch_of_not_canRun _ _ hcan), report_decrementTimers, hcan, hbegin]
  rfl

/-- TICK of a machine that runs and whose batch leaves it as it was: the timers count down. -/
theorem tick_of_idle_batch {clockSpeed : Nat} {mv : HostMove} {s : State} (hrun : (applyEvents mv s).runState = .running)
    (hfault : s.fault = none)
    (hidle : batch (clockSpeed / 60) (snapshotKeys mv (applyEvents mv s)) = .next (snapshotKeys mv (applyEvents mv s))) :
    ∃ t, tick clockSpeed mv s = .next t ∧ t.dt.toNat = s.dt.toNat - 1 ∧ t.st.toNat = s.st.toNat - 1 ∧
      t = { s with runState := .running, keys := mv.keysIn, dt := t.dt, st := t.st, redrawOut := s.redraw, redraw := false } := by
  have hbegin : snapshotKeys mv (applyEvents mv s) = { s with runState := .running, keys := mv.keysIn } := by
    rw [snapshotKeys_applyEvents, hrun]
    rfl
  have hcan : canRun { s with runState := .running, keys := mv.keysIn } = true := (canRun_iff _).mpr ⟨rfl, hfault⟩
  refine ⟨_, (tick_of_batch hidle).trans (congrArg Host.Outcome.next (report_decrementTimers _)), ?_⟩
  rw [hbegin]
  simp only [hcan, if_true]
  exact ⟨countDown_toNat s.dt, countDown_toNat s.st, trivial⟩

end Machine

/-- Settles O50: a Paused machine may not run. -/
theorem pausedTickFreezes : Obligations.PausedTickFreezes := by
  intro clockSpeed mv s hpaused
  rw [tick_of_not_canRun (by rw [hpaused]; exact fun h => absurd h.1 (by decide)), hpaused]
  rfl

/-- Settles O51: no event leaves Halted. -/
theorem haltedTickOnlyReports : Obligations.HaltedTickOnlyReports := by
  intro clockSpeed mv s hhalted
  have hafter : (applyEvents mv s).runState = .halted := by rw [applyEvents_runState, hhalted]
  rw [tick_of_not_canRun (by rw [hafter]; exact fun h => absurd h.1 (by decide)), hafter, if_pos rfl, ← hhalted]

/-- Settles O52: a faulted machine may not run, whatever the events make of the run state. -/
theorem faultedTickFreezes : Obligations.FaultedTickFreezes := fun _ _ _ hfault _ =>
  ⟨_, tick_of_not_canRun fun h => hfault h.2, rfl, fun h => if_pos h, fun h => if_neg h⟩

/-- Settles O53: the batch has no slot. -/
theorem clockBelow60OnlyCountsDown : Obligations.ClockBelow60OnlyCountsDown := by
  intro clockSpeed mv s hclock hrun hfault
  exact tick_of_idle_batch hrun hfault (by rw [Nat.div_eq_of_lt hclock]; rfl)

namespace Machine

/-- A batch in which STEP changes nothing changes nothing, however many slots it has. -/
theorem batch_of_engineStep_self {s : State} (h : engineStep s = .next s) (n : Nat) : batch n s = .next s := by
  induction n with
  | zero => rfl
  | succ n ih =>
    unfold batch
    split_ifs
    · rw [h]; exact ih
    · rfl

end Machine

/-- Settles O55: with no key down FX0A leaves the state as it is, so every slot of the batch does. -/
theorem keyWaitSpansATick : Obligations.KeyWaitSpansATick := by
  intro clockSpeed mv s x hrun hfault hpause hquit hkeys hpc hword
  have hafter : (applyEvents mv s).runState = .running := by rw [applyEvents_runState, hrun, hpause, hquit]; rfl
  have hbegin : snapshotKeys mv (applyEvents mv s) = { s with runState := .running, keys := mv.keysIn } := by
    rw [snapshotKeys_applyEvents, hafter]
    rfl
  have hself : engineStep (snapshotKeys mv (applyEvents mv s)) = .next (snapshotKeys mv (applyEvents mv s)) := by
    rw [hbegin]
    refine (engineStep_of_le (s := { s with runState := .running, keys := mv.keysIn }) hpc).trans ?_
    show exec (decode (wordAt s.mem s.pc.toNat)) _ = _
    rw [hword]
    exact exec_ldVxK_of_none x hkeys
  obtain ⟨t, htick, hdt, hst, hframe⟩ := tick_of_idle_batch hafter hfault (batch_of_engineStep_self hself _)
  exact ⟨t, htick, hdt, hst, by rw [← hrun] at hframe; exact hframe⟩

/-! ### The tick in steps (R180, R186) -/

namespace Machine

/-- A batch answers a state of the same phase. -/
theorem batch_answers (n : Nat) (s : State) : ∃ u, batch n s = .next u ∧ u.phase = s.phase := by
  induction n generalizing s with
  | zero => exact ⟨s, rfl, rfl⟩
  | succ n ih =>
    unfold batch
    split_ifs with hcan
    · obtain ⟨t, hstep⟩ := engineStep_answers s
      obtain ⟨u, hbatch, hphase⟩ := ih t
      obtain ⟨-, -, -, htphase, -, -⟩ := engineStep_keeps hstep
      exact ⟨u, by rw [hstep]; exact hbatch, hphase.trans htphase⟩
    · exact ⟨s, rfl, rfl⟩

theorem canRun_setPhase (s : State) (p : Phase) : canRun (s.setPhase p) = canRun s := rfl

theorem tickTail_setPhase (s : State) (p : Phase) : tickTail (s.setPhase p) = tickTail s := by
  rw [tickTail_eq, tickTail_eq]
  rfl

theorem stepsWith_one {clockSpeed : Nat} {s t : State} (h : stepWith clockSpeed s = .next t) : stepsWith clockSpeed 1 s = .next t := by
  rw [stepsWith, h]
  rfl

theorem stepsWith_succ {clockSpeed k : Nat} {s t : State} (h : stepWith clockSpeed s = .next t) :
    stepsWith clockSpeed (k + 1) s = stepsWith clockSpeed k t := by
  rw [stepsWith, h]
  rfl

/-- From `n` slots left, at most `n + 1` steps lead through the batch and the tail. -/
theorem stepsWith_walks_batch (clockSpeed n : Nat) (s u : State) (h : batch n s = .next u) :
    ∃ k, 1 ≤ k ∧ k ≤ n + 1 ∧ stepsWith clockSpeed k (s.setPhase (.inBatch n)) = .next (tickTail u) := by
  induction n generalizing s with
  | zero =>
    obtain rfl : s = u := Host.Outcome.next.inj h
    exact ⟨1, le_rfl, le_rfl, stepsWith_one ((stepWith_tail rfl).trans (congrArg Host.Outcome.next (tickTail_setPhase s _)))⟩
  | succ n ih =>
    have hslot : stepWith clockSpeed (s.setPhase (.inBatch (n + 1))) = slot n (s.setPhase (.inBatch (n + 1))) := stepWith_slot rfl
    cases hcan : canRun s with
    | false =>
      rw [batch_of_not_canRun _ _ hcan] at h
      obtain rfl := Host.Outcome.next.inj h
      rw [slot_of_not_canRun ((canRun_setPhase s _).trans hcan), tickTail_setPhase] at hslot
      exact ⟨1, le_rfl, by omega, stepsWith_one hslot⟩
    | true =>
      obtain ⟨t, hstep⟩ := engineStep_answers s
      have hrest : batch n t = .next u := by
        rw [batch, if_pos hcan, hstep] at h
        exact h
      obtain ⟨k, hk, hkn, hsteps⟩ := ih t hrest
      have hfirst : stepWith clockSpeed (s.setPhase (.inBatch (n + 1))) = .next (t.setPhase (.inBatch n)) :=
        hslot.trans ((slot_of_canRun ((canRun_setPhase s _).trans hcan)).trans (engineStep_setPhase hstep _))
      exact ⟨k + 1, by omega, by omega, (stepsWith_succ hfirst).trans hsteps⟩

end Machine

/-- Settles O56: the head begins the batch that TICK runs, the slots walk through it, and the tail is TICK's; the phase that the steps
keep count in is between ticks at both ends. -/
theorem stepsWalkThroughTheTick : Obligations.StepsWalkThroughTheTick := by
  intro clockSpeed s hp
  obtain ⟨u, hbatch, hphase⟩ :=
    batch_answers (clockSpeed / 60) (snapshotKeys (nextMove s) (applyEvents (nextMove s) s.afterMove))
  obtain ⟨k, hk, hkn, hsteps⟩ := stepsWith_walks_batch clockSpeed _ _ u hbatch
  rw [snapshotKeys_applyEvents] at hphase
  have htail : tickTail u = report (decrementTimers u) := by
    rw [tickTail_eq, report_decrementTimers, hphase.trans hp]
  refine ⟨k + 1, tickTail u, by omega, by omega, ?_, ?_, ?_⟩
  · rw [htail]
    exact tick_of_batch hbatch
  · rw [tickTail_eq]
  · exact (stepsWith_succ (stepWith_head hp)).trans hsteps

end Sys2Proof

/-! The invariant (spec/10_state.md R24, R25, spec/20_memory.md R50, spec/46_frame_scheduler.md R181). -/

namespace Sys2Proof

namespace Machine

/-- Memory stays canonical: the two storing instructions store in range. -/
theorem exec_keeps_memWf {i : Instr} {s t : State} (hwf : Memory.wf s.mem = true) (h : exec i s = .next t) :
    Memory.wf t.mem = true := by
  obtain ⟨hmem | ⟨x, rfl | rfl⟩, -⟩ := mutatorsOfEachPieceOfState i s t h
  · rw [hmem]
    exact hwf
  · rw [exec_bcd] at h
    split_ifs at h with hout
    · obtain rfl := Host.Outcome.next.inj h
      exact hwf
    · obtain rfl := Host.Outcome.next.inj h
      refine Memory.wf_writeBytes _ _ _ hwf ?_
      show effAddr s 0 + 3 ≤ 4096
      simp only [effAddr] at hout ⊢
      omega
  · rw [exec_store] at h
    split_ifs at h with hout
    · obtain rfl := Host.Outcome.next.inj h
      exact hwf
    · obtain rfl := Host.Outcome.next.inj h
      exact storeRegs_wf _ _ _ _ hwf fun r => effAddr_le_of_mem_regsUpTo (not_lt.mp hout)

/-- A fetched instruction that falls through or skips leaves `PC` within R24's bound. -/
theorem skip_le {a : Word} (h : a.toNat ≤ 4094) (c : Prop) [Decidable c] :
    (a + if c then 4 else 2).toNat ≤ 0x10FE ∧ (a + if c then 2 else 4).toNat ≤ 0x10FE := by
  split_ifs <;> constructor <;> bv_omega

/-- Every row of R24's table stays within its bound, when the instruction was fetched and the live entries are return addresses. -/
theorem PcAfter.le {i : Instr} {s : State} {pc : Word} (h : PcAfter i s pc) (hpc : s.pc.toNat ≤ 4094)
    (hlive : ∀ k : Fin 12, k.val < s.sp.val → (s.stack.get k).toNat ≤ 4096) : pc.toNat ≤ 0x10FE := by
  have hnext : (s.pc + 2).toNat ≤ 0x10FE := by bv_omega
  cases i with
  | jp nnn =>
    have h : pc.toNat = nnn.toNat := h
    omega
  | call nnn =>
    have h : pc.toNat = nnn.toNat := h
    omega
  | ret =>
    obtain ⟨k, hk, rfl⟩ := h
    exact (hlive k (by omega)).trans (by decide)
  | jpV0 nnn => exact h.2
  | seImm x nn => exact h ▸ (skip_le hpc _).1
  | sneImm x nn => exact h ▸ (skip_le hpc _).2
  | seReg x y n => exact h ▸ (skip_le hpc _).1
  | sneReg x y n => exact h ▸ (skip_le hpc _).2
  | skp x => exact h ▸ (skip_le hpc _).1
  | sknp x => exact h ▸ (skip_le hpc _).2
  | ldVxK x =>
    obtain ⟨hdown, hup⟩ := h
    by_cases hkey : ∃ k, s.keys.get k = true
    · exact hdown hkey ▸ hnext
    · exact hup (fun k => by simpa using fun hk => hkey ⟨k, hk⟩) ▸ hpc.trans (by decide)
  | _ => exact h ▸ hnext

/-- A call pushes the word after a fetched instruction, a return only takes an entry away. -/
theorem exec_keeps_liveReturn {i : Instr} {s t : State} (hpc : s.pc.toNat ≤ 4094)
    (hlive : ∀ k : Fin 12, k.val < s.sp.val → 2 ≤ (s.stack.get k).toNat ∧ (s.stack.get k).toNat ≤ 4096)
    (h : exec i s = .next t) : ∀ k : Fin 12, k.val < t.sp.val → 2 ≤ (t.stack.get k).toNat ∧ (t.stack.get k).toNat ≤ 4096 := by
  obtain ⟨-, -, -, ⟨hstack, hsp⟩ | rfl | ⟨nnn, rfl⟩, -⟩ := mutatorsOfEachPieceOfState i s t h
  · rw [hstack, hsp]
    exact hlive
  · rw [exec_ret] at h
    split_ifs at h with hpos
    · obtain rfl := Host.Outcome.next.inj h
      exact fun k hk => hlive k (lt_of_lt_of_le hk (Nat.sub_le _ _))
    · obtain rfl := Host.Outcome.next.inj h
      exact hlive
  · rw [exec_call] at h
    split_ifs at h with hlt
    · obtain rfl := Host.Outcome.next.inj h
      intro k hk
      have hread : (s.stack.set s.sp.val (s.pc + 2) hlt).get k = if k = ⟨s.sp.val, hlt⟩ then s.pc + 2 else s.stack.get k :=
        vector_get_set s.stack ⟨s.sp.val, hlt⟩ k (s.pc + 2)
      show 2 ≤ ((s.stack.set s.sp.val (s.pc + 2) hlt).get k).toNat ∧ ((s.stack.set s.sp.val (s.pc + 2) hlt).get k).toNat ≤ 4096
      rw [hread]
      split_ifs with htop
      · constructor <;> bv_omega
      · exact hlive k (lt_of_le_of_ne (Nat.le_of_lt_succ hk) fun he => htop (Fin.ext he))
    · obtain rfl := Host.Outcome.next.inj h
      exact hlive

/-- A fetched instruction keeps the invariant. -/
theorem exec_keeps_inv {clockSpeed : Nat} {i : Instr} {s t : State} (hpc : s.pc.toNat ≤ 4094) (hinv : Inv clockSpeed s)
    (h : exec i s = .next t) : Inv clockSpeed t where
  memWf := exec_keeps_memWf hinv.memWf h
  pcBound := by
    cases ended_of_exec h with
    | faulted c same cause => subst same; exact hinv.pcBound
    | completed frame pc => exact pc.le hpc fun k hk => (hinv.liveReturn k hk).2
  liveReturn := exec_keeps_liveReturn hpc hinv.liveReturn h
  slotsBound := by
    obtain ⟨-, -, -, -, -, -, -, -, -, -, -, hphase, -⟩ := mutatorsOfEachPieceOfState i s t h
    rw [hphase]
    exact hinv.slotsBound

theorem engineStep_keeps_inv {clockSpeed : Nat} {s t : State} (hinv : Inv clockSpeed s) (h : engineStep s = .next t) :
    Inv clockSpeed t := by
  by_cases hpc : 4094 < s.pc.toNat
  · rw [engineStep_of_lt hpc] at h
    obtain rfl := Host.Outcome.next.inj h
    exact ⟨hinv.memWf, hinv.pcBound, hinv.liveReturn, hinv.slotsBound⟩
  · rw [engineStep_of_le (by omega)] at h
    exact exec_keeps_inv (by omega) hinv h

/-- The invariant reads memory, `PC`, the live stack and the slots left, and nothing else. -/
theorem Inv.of_same {clockSpeed : Nat} {s t : State} (hinv : Inv clockSpeed s) (hmem : t.mem = s.mem) (hpc : t.pc = s.pc)
    (hstack : t.stack = s.stack) (hsp : t.sp = s.sp) (hslots : ∀ n, t.phase = .inBatch n → n ≤ clockSpeed / 60) :
    Inv clockSpeed t where
  memWf := hmem ▸ hinv.memWf
  pcBound := hpc ▸ hinv.pcBound
  liveReturn := by rw [hstack, hsp]; exact hinv.liveReturn
  slotsBound := hslots

theorem tickTail_keeps_inv {clockSpeed : Nat} {s : State} (hinv : Inv clockSpeed s) : Inv clockSpeed (tickTail s) := by
  rw [tickTail_eq]
  exact hinv.of_same rfl rfl rfl rfl fun n hn => nomatch hn

theorem tickHead_keeps_inv {clockSpeed : Nat} {s : State} (hinv : Inv clockSpeed s) : Inv clockSpeed (tickHead clockSpeed s) := by
  rw [tickHead_eq]
  exact hinv.of_same rfl rfl rfl rfl fun n hn => (Phase.inBatch.inj hn).ge

theorem stepWith_keeps_inv {clockSpeed : Nat} {s t : State} (hinv : Inv clockSpeed s) (h : stepWith clockSpeed s = .next t) :
    Inv clockSpeed t := by
  cases hp : s.phase with
  | betweenTicks =>
    rw [stepWith_head hp] at h
    exact Host.Outcome.next.inj h ▸ tickHead_keeps_inv hinv
  | inBatch n =>
    rcases stepWith_inBatch_cases (clockSpeed := clockSpeed) hp with htail | ⟨left, rfl, -, hslot⟩
    · rw [htail] at h
      exact Host.Outcome.next.inj h ▸ tickTail_keeps_inv hinv
    · have hslots := hinv.slotsBound _ hp
      have hbefore : Inv clockSpeed (s.setPhase (.inBatch left)) :=
        hinv.of_same rfl rfl rfl rfl fun n hn => by have := Phase.inBatch.inj hn; omega
      exact engineStep_keeps_inv hbefore (hslot.symm.trans h)

end Machine

open Machine

/-- Settles O58: the memory and the stack of the reset state are empty, and it is between ticks. -/
theorem resetMeetsTheInvariant : Obligations.ResetMeetsTheInvariant := fun _ =>
  ⟨rfl, by decide, fun _ hk => absurd hk (Nat.not_lt_zero _), fun _ hn => nomatch hn⟩

/-- Settles O59: `step` is the step at the default CLOCK_SPEED. -/
theorem everyStepKeepsTheInvariant : Obligations.EveryStepKeepsTheInvariant :=
  ⟨fun _ _ => stepWith_keeps_inv, fun _ _ _ => stepWith_keeps_inv⟩

end Sys2Proof
